-- ==== Sys2Proof/Word.lean ====
section
/-! DEFINITION. The widths of the machine (00_scope.md R5, R8, R9): every value is an unsigned integer
of a stated width, and arithmetic wraps modulo that width, which is what `BitVec` does. -/

namespace Sys2Proof

/-- An 8-bit value: a general register, a timer, a byte of memory (R9, R20, R26, R33). -/
abbrev Byte := BitVec 8

/-- A 16-bit value: an instruction word, `pc`, `I`, a stack slot (R22, R23, R24, R70). -/
abbrev Word := BitVec 16

/-- "A 4-bit slice of an opcode, used for decoding" (R8, R11). -/
abbrev Nibble := BitVec 4

/-- The 12-bit address immediate `nnn` (R72). -/
abbrev Addr := BitVec 12

/-- The framebuffer `Fb[0..2047]`: 2048 single-bit pixels, bit `k` being `Fb[k]` (R29). The rules
XOR pixels and test them, so it is held as the bit string the rule describes. -/
abbrev Framebuffer := BitVec 2048

end Sys2Proof
end

