-- ==== Sys2Proof/Config.lean ====
section
/-! DEFINITION. What is fixed for the machine (00_scope.md R5, the rows marked *fixed*), the kinds of
choice the spec's *decided* parameters range over (their values are in Machine/Params.lean), and the
one free value: the random byte (60_exceptions.md R228). -/

namespace Sys2Proof

/-- `MEM_SIZE`: addresses 0x000 to 0xFFF exist (R5, R50). -/
@[simp] def Config.memSize : Nat := 4096

/-- `FONT_BASE` (R5, R52). -/
@[simp] def Config.fontBase : Nat := 0

/-- `FONT_LEN`: 16 glyphs of 5 bytes (R5, R52). -/
@[simp] def Config.fontLen : Nat := 80

/-- `PROG_BASE` (R5, R51, R53). -/
@[simp] def Config.progBase : Nat := 0x200

/-- `PROG_MAX`: 4096 - 0x200 bytes of program at most (R5, R53). -/
@[simp] def Config.progMax : Nat := 3584

/-- `RESET_PC` (R5, R22, R36). -/
@[simp] def Config.resetPc : Word := 0x0200#16

/-- `FB_W` (R5, R29). -/
@[simp] def Config.fbWidth : Nat := 64

/-- `FB_H` (R5, R29). -/
@[simp] def Config.fbHeight : Nat := 32

/-- `STEPS_PER_TICK`: "reference behavior N=4", a parameter of the host (R5, R231); no rule of the
block uses it, only the reference schedule does. -/
def Config.stepsPerTick : Nat := 4

/-- The values of `UNDERFLOW_POLICY`: the two example policies of the source (R213, decision D4). -/
inductive UnderflowPolicy where
  | fault
  | resumeAtZero
deriving DecidableEq, Repr

/-- The values of `OOR_POLICY` (R57, decision D5). The source's other word, "clamped", is nowhere
defined and must not be modelled (93_implementation_defined.md A1), so the fault stands alone. -/
inductive OorPolicy where
  | fault
deriving DecidableEq, Repr

/-- The values of `SHIFT_SOURCE` (R147, decision D11). -/
inductive ShiftSource where
  | vx
  | vy
deriving DecidableEq, Repr

/-- The values of `KEY_WAIT_PRIORITY`: the order in which `Fx0A` scans the keys (R192, D15). -/
inductive KeyPriority where
  | lowestFirst
  | highestFirst
deriving DecidableEq, Repr

/-- FREE VALUE. The `k`-th random byte that a host supplies when no event names it (R132, R228: "an
8-bit value chosen by the host", of which "no property may be assumed"). It has no body, so no
proof can see it. Log entry 3. -/
opaque Config.freeByte : Nat → Byte

end Sys2Proof
end

