-- ==== Sys2Proof/Syntax.lean ====
section
/-! DEFINITION. The instructions: one constructor per row of spec/opcode_table.json, in its order
(30_encoding.md R80). Operands carry exactly the bits the encoding gives them (R72). -/

namespace Sys2Proof

/-- A register number `x` or `y`: it names `V[0]` to `V[15]` (R20, R72). -/
abbrev Reg := Nibble

/-- The 34 instructions of R80. The pattern in each docstring is the instruction's normative name. -/
inductive Instr where
  /-- `00E0` CLS (R180) -/
  | cls
  /-- `00EE` RET (R100) -/
  | ret
  /-- `1nnn` JP nnn (R101) -/
  | jp (nnn : Addr)
  /-- `2nnn` CALL nnn (R102) -/
  | call (nnn : Addr)
  /-- `3xkk` SE Vx, kk (R121) -/
  | seImm (x : Reg) (kk : Byte)
  /-- `4xkk` SNE Vx, kk (R122) -/
  | sneImm (x : Reg) (kk : Byte)
  /-- `5xy0` SE Vx, Vy (R123) -/
  | seReg (x y : Reg)
  /-- `9xy0` SNE Vx, Vy (R124) -/
  | sneReg (x y : Reg)
  /-- `6xkk` LD Vx, kk (R130) -/
  | ldImm (x : Reg) (kk : Byte)
  /-- `7xkk` ADD Vx, kk (R131) -/
  | addImm (x : Reg) (kk : Byte)
  /-- `8xy0` LD Vx, Vy (R141) -/
  | ldReg (x y : Reg)
  /-- `8xy1` OR Vx, Vy (R142) -/
  | orReg (x y : Reg)
  /-- `8xy2` AND Vx, Vy (R143) -/
  | andReg (x y : Reg)
  /-- `8xy3` XOR Vx, Vy (R144) -/
  | xorReg (x y : Reg)
  /-- `8xy4` ADD Vx, Vy (R145) -/
  | addReg (x y : Reg)
  /-- `8xy5` SUB Vx, Vy (R146) -/
  | subReg (x y : Reg)
  /-- `8xy6` SHR Vx (R147); `y` is in the word and ignored -/
  | shr (x y : Reg)
  /-- `8xy7` SUBN Vx, Vy (R148) -/
  | subnReg (x y : Reg)
  /-- `8xyE` SHL Vx (R149); `y` is in the word and ignored -/
  | shl (x y : Reg)
  /-- `Annn` LD I, nnn (R161) -/
  | ldI (nnn : Addr)
  /-- `Bnnn` JP V0, nnn (R103) -/
  | jpV0 (nnn : Addr)
  /-- `Cxkk` RND Vx, kk (R132) -/
  | rnd (x : Reg) (kk : Byte)
  /-- `Dxyn` DRW Vx, Vy, n (R181) -/
  | drw (x y : Reg) (n : Nibble)
  /-- `Ex9E` SKP Vx (R190) -/
  | skp (x : Reg)
  /-- `ExA1` SKNP Vx (R191) -/
  | sknp (x : Reg)
  /-- `Fx07` LD Vx, DT (R193) -/
  | ldVxDt (x : Reg)
  /-- `Fx15` LD DT, Vx (R194) -/
  | ldDtVx (x : Reg)
  /-- `Fx18` LD ST, Vx (R195) -/
  | ldStVx (x : Reg)
  /-- `Fx1E` ADD I, Vx (R162) -/
  | addI (x : Reg)
  /-- `Fx29` LD F, Vx (R163) -/
  | ldF (x : Reg)
  /-- `Fx33` LD B, Vx (R164) -/
  | ldB (x : Reg)
  /-- `Fx55` LD [I], Vx (R165) -/
  | storeRegs (x : Reg)
  /-- `Fx65` LD Vx, [I] (R166) -/
  | loadRegs (x : Reg)
  /-- `Fx0A` LD Vx, K (R192) -/
  | ldKey (x : Reg)
deriving DecidableEq, Repr

end Sys2Proof
end

