-- ==== Sys2Proof/Decode.lean ====
section
/-! DEFINITION. The decoder and the encoder (30_encoding.md R70 to R81). Decoding is a pure function of
the fetched word (R70); a word of no row is rejected by name (R79). -/

namespace Sys2Proof

/-- Why bytes do not decode. `unsupported w`: `w` is in the Unsupported set of R79, and the step that
fetched it raises `UnsupportedOpcode` (R212). `truncated`: fewer than the two bytes of R70 were
given; a fetch always gives two, so no step meets it. -/
inductive DecodeError where
  | unsupported (w : Word)
  | truncated
deriving DecidableEq, Repr

/-- `h = w[15:12]` (R8, R73). -/
def fieldH (w : Word) : Nibble := w.extractLsb' 12 4

/-- `x = w[11:8]` (R72). -/
def fieldX (w : Word) : Reg := w.extractLsb' 8 4

/-- `y = w[7:4]` (R72). -/
def fieldY (w : Word) : Reg := w.extractLsb' 4 4

/-- `n = w[3:0]` (R72). -/
def fieldN (w : Word) : Nibble := w.extractLsb' 0 4

/-- `kk = w[7:0]` (R72). -/
def fieldKK (w : Word) : Byte := w.extractLsb' 0 8

/-- `nnn = w[11:0]` (R72). -/
def fieldNNN (w : Word) : Addr := w.extractLsb' 0 12

/-- Secondary dispatch for `h = 0x0`, on the whole word (R74). -/
def decode0 (w : Word) : Except DecodeError Instr :=
  if w = 0x00E0#16 then .ok .cls
  else if w = 0x00EE#16 then .ok .ret
  else .error (.unsupported w)

/-- Secondary dispatch for `h = 0x8`, on the low nibble (R75). -/
def decode8 (w : Word) : Except DecodeError Instr :=
  if fieldN w = 0x0#4 then .ok (.ldReg (fieldX w) (fieldY w))
  else if fieldN w = 0x1#4 then .ok (.orReg (fieldX w) (fieldY w))
  else if fieldN w = 0x2#4 then .ok (.andReg (fieldX w) (fieldY w))
  else if fieldN w = 0x3#4 then .ok (.xorReg (fieldX w) (fieldY w))
  else if fieldN w = 0x4#4 then .ok (.addReg (fieldX w) (fieldY w))
  else if fieldN w = 0x5#4 then .ok (.subReg (fieldX w) (fieldY w))
  else if fieldN w = 0x6#4 then .ok (.shr (fieldX w) (fieldY w))
  else if fieldN w = 0x7#4 then .ok (.subnReg (fieldX w) (fieldY w))
  else if fieldN w = 0xE#4 then .ok (.shl (fieldX w) (fieldY w))
  else .error (.unsupported w)

/-- Secondary dispatch for `h = 0xE`, on the low byte (R76). -/
def decodeE (w : Word) : Except DecodeError Instr :=
  if fieldKK w = 0x9E#8 then .ok (.skp (fieldX w))
  else if fieldKK w = 0xA1#8 then .ok (.sknp (fieldX w))
  else .error (.unsupported w)

/-- Secondary dispatch for `h = 0xF`, on the low byte (R77). -/
def decodeF (w : Word) : Except DecodeError Instr :=
  if fieldKK w = 0x07#8 then .ok (.ldVxDt (fieldX w))
  else if fieldKK w = 0x0A#8 then .ok (.ldKey (fieldX w))
  else if fieldKK w = 0x15#8 then .ok (.ldDtVx (fieldX w))
  else if fieldKK w = 0x18#8 then .ok (.ldStVx (fieldX w))
  else if fieldKK w = 0x1E#8 then .ok (.addI (fieldX w))
  else if fieldKK w = 0x29#8 then .ok (.ldF (fieldX w))
  else if fieldKK w = 0x33#8 then .ok (.ldB (fieldX w))
  else if fieldKK w = 0x55#8 then .ok (.storeRegs (fieldX w))
  else if fieldKK w = 0x65#8 then .ok (.loadRegs (fieldX w))
  else .error (.unsupported w)

/-- The decoder: primary dispatch on the high nibble (R73), then R74 to R78. -/
def decodeWord (w : Word) : Except DecodeError Instr :=
  if fieldH w = 0x0#4 then decode0 w
  else if fieldH w = 0x1#4 then .ok (.jp (fieldNNN w))
  else if fieldH w = 0x2#4 then .ok (.call (fieldNNN w))
  else if fieldH w = 0x3#4 then .ok (.seImm (fieldX w) (fieldKK w))
  else if fieldH w = 0x4#4 then .ok (.sneImm (fieldX w) (fieldKK w))
  else if fieldH w = 0x5#4 then
    if fieldN w = 0x0#4 then .ok (.seReg (fieldX w) (fieldY w)) else .error (.unsupported w)
  else if fieldH w = 0x6#4 then .ok (.ldImm (fieldX w) (fieldKK w))
  else if fieldH w = 0x7#4 then .ok (.addImm (fieldX w) (fieldKK w))
  else if fieldH w = 0x8#4 then decode8 w
  else if fieldH w = 0x9#4 then
    if fieldN w = 0x0#4 then .ok (.sneReg (fieldX w) (fieldY w)) else .error (.unsupported w)
  else if fieldH w = 0xA#4 then .ok (.ldI (fieldNNN w))
  else if fieldH w = 0xB#4 then .ok (.jpV0 (fieldNNN w))
  else if fieldH w = 0xC#4 then .ok (.rnd (fieldX w) (fieldKK w))
  else if fieldH w = 0xD#4 then .ok (.drw (fieldX w) (fieldY w) (fieldN w))
  else if fieldH w = 0xE#4 then decodeE w
  else decodeF w

/-- The word two bytes make: the byte at the lower address is the high byte (20_memory.md R54). -/
def wordOfBytes (hi lo : Byte) : Word := hi ++ lo

/-- The decoder on bytes in address order: the instruction and the bytes that follow it. Every
instruction is two bytes (R70). -/
def decode : List Byte → Except DecodeError (Instr × List Byte)
  | hi :: lo :: rest =>
    match decodeWord (wordOfBytes hi lo) with
    | .ok i => .ok (i, rest)
    | .error e => .error e
  | _ => .error .truncated

/-- Format `NNN` (R71): opcode nibble, 12-bit address. -/
def wordNNN (h : Nibble) (nnn : Addr) : Word := h ++ nnn

/-- Format `XKK` (R71): opcode nibble, `x`, `kk`. -/
def wordXKK (h : Nibble) (x : Reg) (kk : Byte) : Word := h ++ x ++ kk

/-- Formats `XY` and `XYN` (R71): opcode nibble, `x`, `y`, low nibble. -/
def wordXYN (h : Nibble) (x y : Reg) (n : Nibble) : Word := h ++ x ++ y ++ n

/-- The encoder: the word of an instruction, from R71 and the match column of R80. -/
def encode : Instr → Word
  | .cls => 0x00E0
  | .ret => 0x00EE
  | .jp nnn => wordNNN 0x1 nnn
  | .call nnn => wordNNN 0x2 nnn
  | .seImm x kk => wordXKK 0x3 x kk
  | .sneImm x kk => wordXKK 0x4 x kk
  | .seReg x y => wordXYN 0x5 x y 0x0
  | .sneReg x y => wordXYN 0x9 x y 0x0
  | .ldImm x kk => wordXKK 0x6 x kk
  | .addImm x kk => wordXKK 0x7 x kk
  | .ldReg x y => wordXYN 0x8 x y 0x0
  | .orReg x y => wordXYN 0x8 x y 0x1
  | .andReg x y => wordXYN 0x8 x y 0x2
  | .xorReg x y => wordXYN 0x8 x y 0x3
  | .addReg x y => wordXYN 0x8 x y 0x4
  | .subReg x y => wordXYN 0x8 x y 0x5
  | .shr x y => wordXYN 0x8 x y 0x6
  | .subnReg x y => wordXYN 0x8 x y 0x7
  | .shl x y => wordXYN 0x8 x y 0xE
  | .ldI nnn => wordNNN 0xA nnn
  | .jpV0 nnn => wordNNN 0xB nnn
  | .rnd x kk => wordXKK 0xC x kk
  | .drw x y n => wordXYN 0xD x y n
  | .skp x => wordXKK 0xE x 0x9E
  | .sknp x => wordXKK 0xE x 0xA1
  | .ldVxDt x => wordXKK 0xF x 0x07
  | .ldDtVx x => wordXKK 0xF x 0x15
  | .ldStVx x => wordXKK 0xF x 0x18
  | .addI x => wordXKK 0xF x 0x1E
  | .ldF x => wordXKK 0xF x 0x29
  | .ldB x => wordXKK 0xF x 0x33
  | .storeRegs x => wordXKK 0xF x 0x55
  | .loadRegs x => wordXKK 0xF x 0x65
  | .ldKey x => wordXKK 0xF x 0x0A

/-- The two bytes of a word in address order, high byte first (R54). -/
def bytesOfWord (w : Word) : List Byte := [w.extractLsb' 8 8, w.extractLsb' 0 8]

/-- The one word an instruction occupies, from the opcode table's numbering of its bits (bit 0 the
least significant of the word); bits at and above `nbits` are 0. -/
def tableWord (nbits w : Nat) : Word := BitVec.ofNat 16 (w % 2 ^ nbits)

/-- The instruction the decoder reads from the bytes of the word `w`, laid out as memory holds them. -/
def decodeTableWord (nbits w : Nat) : Option Instr :=
  match decode (bytesOfWord (tableWord nbits w)) with
  | .ok (i, _) => some i
  | .error _ => none

end Sys2Proof
end

