-- ==== Sys2Proof/Machine/Params.lean ====
section
/-! DEFINITION. The parameters of 00_scope.md R5 that the spec marks *decided*: each is one named value,
so that another choice is a change here and in no meaning. -/

namespace Sys2Proof.Machine

/-- `STACK_DEPTH` = 16, a hard bound (R5, R24, decision D3). -/
@[simp] def Param.stackDepth : Nat := 16

/-- `UNDERFLOW_POLICY` = fault (R5, R213, decision D4). -/
@[simp] def Param.underflowPolicy : UnderflowPolicy := .fault

/-- `OOR_POLICY` = fault (R5, R57, decision D5). -/
@[simp] def Param.oorPolicy : OorPolicy := .fault

/-- `I_MASK_12` = false: `I` is never masked to 12 bits (R5, R23, decision D7). -/
@[simp] def Param.iMask12 : Bool := false

/-- `SHIFT_SOURCE` = `Vx` (R5, R147, decision D11). -/
@[simp] def Param.shiftSource : ShiftSource := .vx

/-- `LOGIC_RESETS_VF` = false (R5, R142, decision D10). -/
@[simp] def Param.logicResetsVF : Bool := false

/-- `CLS_SETS_DIRTY` = false (R5, R180, decision D14). -/
@[simp] def Param.clsSetsDirty : Bool := false

/-- `KEY_WAIT_PRIORITY` = lowest index first (R5, R192, decision D15). -/
@[simp] def Param.keyWaitPriority : KeyPriority := .lowestFirst

/-- Glyphs 0 to 3 of `FONT` (20_memory.md R52). -/
def Param.font0to3 : List Byte :=
  [0xF0, 0x90, 0x90, 0x90, 0xF0,
   0x20, 0x60, 0x20, 0x20, 0x70,
   0xF0, 0x10, 0xF0, 0x80, 0xF0,
   0xF0, 0x10, 0xF0, 0x10, 0xF0]

/-- Glyphs 4 to 7 of `FONT` (R52). -/
def Param.font4to7 : List Byte :=
  [0x90, 0x90, 0xF0, 0x10, 0x10,
   0xF0, 0x80, 0xF0, 0x10, 0xF0,
   0xF0, 0x80, 0xF0, 0x90, 0xF0,
   0xF0, 0x10, 0x20, 0x40, 0x40]

/-- Glyphs 8 to B of `FONT` (R52). -/
def Param.font8toB : List Byte :=
  [0xF0, 0x90, 0xF0, 0x90, 0xF0,
   0xF0, 0x90, 0xF0, 0x10, 0xF0,
   0xF0, 0x90, 0xF0, 0x90, 0x90,
   0xE0, 0x90, 0xE0, 0x90, 0xE0]

/-- Glyphs C to F of `FONT` (R52). -/
def Param.fontCtoF : List Byte :=
  [0xF0, 0x80, 0x80, 0x80, 0xF0,
   0xE0, 0x90, 0x90, 0x90, 0xE0,
   0xF0, 0x80, 0xF0, 0x80, 0xF0,
   0xF0, 0x80, 0xF0, 0x80, 0x80]

/-- `FONT`: the 80 bytes, five per hexadecimal digit, top row first. The spec takes them from general
knowledge (R52, decision D18); log entry 6. -/
def Param.font : List Byte :=
  Param.font0to3 ++ Param.font4to7 ++ Param.font8toB ++ Param.fontCtoF

end Sys2Proof.Machine
end

