-- ==== Sys2Proof/Machine/State.lean ====
section
/-! DEFINITION. The state of one Machine (10_state.md R20 to R36), the host that acts on it
(60_exceptions.md R222), and the state after `Reset`. -/

namespace Sys2Proof.Machine

/-- The five fault causes (R211). They are the machine's own: raising one is a NEXT state whose `fault`
record is set (R218), never a `Fault` below. -/
inductive Cause where
  /-- code 1: the fetched word is of no instruction (R212) -/
  | unsupportedOpcode
  /-- code 2: `00EE` with an empty stack (R213) -/
  | stackUnderflow
  /-- code 3: `2nnn` with a full stack (R214) -/
  | stackOverflow
  /-- code 4: a data access above 0xFFF (R215) -/
  | addressOutOfRange
  /-- code 5: a fetch at `pc` above 0xFFE (R216) -/
  | fetchOutOfRange
deriving DecidableEq, Repr

/-- The triple `(cause, word, at)` of the fault record (R32); `pc` is its `at`. -/
structure FaultRecord where
  cause : Cause
  word : Word
  pc : Word
deriving DecidableEq, Repr

/-- The seven host events (R222). -/
inductive Event where
  /-- all state to its reset value (R240) -/
  | reset
  /-- `Mem[0x200 + j] <- b`, only before the load is done (R229) -/
  | romWrite (j : Nat) (b : Byte)
  /-- `loaded <- true` (R229) -/
  | loadDone
  /-- `Key[k] <- keys[k]` for all `k` (R226) -/
  | sampleKeys (keys : Vector Bool 16)
  /-- one instruction or nothing, with the random byte `r` (R230) -/
  | step (r : Byte)
  /-- the timers count down by one (R224) -/
  | timerTick
  /-- `dirty <- false` (R227) -/
  | frameAck
deriving DecidableEq, Repr

/-- The other agent, the host (R7), as plain data beside the Machine: not state of the block (R34), but
what its events and signals pass through. -/
structure Environment where
  /-- the events the host issues next, in order; when there is none left it issues `Step` -/
  script : List Event
  /-- the random byte given with the `Step` in progress, if the event names one (R228) -/
  rnd : Option Byte
  /-- how many `Cxkk` have drawn a byte: the index of the next free one (R132) -/
  draws : Nat
  /-- how many `SoundZero` signals the block has emitted (R225) -/
  soundZeros : Nat
deriving DecidableEq, Repr

/-- Memory, in canonical form: addresses strictly rising, no entry equal to what an unlisted address
reads as (Machine/Ops.lean, `Memory.initial` and `Memory.wf`). -/
abbrev Memory := List Host.Cell

/-- The Machine's state: one field per component of R20 to R33, and the host's side. -/
structure State where
  /-- `V0` to `VF` (R20, R21) -/
  v : Vector Byte 16
  /-- program counter (R22) -/
  pc : Word
  /-- index register `I` (R23) -/
  i : Word
  /-- call stack: `Stack[0..SP-1]`, most recently pushed last, `SP` its length (R24) -/
  stack : List Word
  /-- delay timer `DT` (R26) -/
  dt : Byte
  /-- sound timer `ST` (R27) -/
  st : Byte
  /-- key-state table `Key[0..15]` (R28) -/
  keys : Vector Bool 16
  /-- framebuffer `Fb[0..2047]` (R29) -/
  fb : Framebuffer
  /-- loaded gate (R30) -/
  loaded : Bool
  /-- dirty flag (R31) -/
  dirty : Bool
  /-- fault record (R32) -/
  fault : Option FaultRecord
  /-- `Mem[0x000..0xFFF]` (R33) -/
  mem : Memory
  /-- the host's side (R7, R222) -/
  env : Environment
deriving DecidableEq, Repr

/-- A step that cannot be taken. No instruction and no rule of the block ends here: the machine's own
faults are latched in `State.fault`. -/
inductive Fault where
  /-- Raised by the host event `RomWrite` after `LoadDone`: "not offered by the interface (no such
  move)" (R222, R229, decision D20), so the run is stuck. SAFE: nothing is claimed of what follows. -/
  | romWriteAfterLoad (j : Nat)
deriving DecidableEq, Repr

/-- What has no meaning in the model. -/
inductive Refusal where
  /-- Raised by `exec` for an instruction that has no meaning yet; no arm uses it. SAFE. -/
  | notModelled (mnemonic : String)
  /-- Raised by the host event `RomWrite` with an offset outside 0..3583: "a longer image is not
  accepted" (R53, R229, decision D20, 93_implementation_defined.md A16). SAFE: nothing is claimed of
  what follows. -/
  | romWriteOutsideProgramArea (j : Nat)
deriving DecidableEq, Repr

/-- The host's side at the beginning: no event named, nothing drawn, nothing emitted (log entry 4). -/
def Environment.initial : Environment :=
  { script := [], rnd := none, draws := 0, soundZeros := 0 }

/-- The state after `Reset` (R36). The source gives `pc`, `loaded`, the font and the empty stack; the
zeros are the spec's decision D2 (log entry 5). Memory lists nothing: an unlisted address reads as its
reset content. -/
def State.reset : State :=
  { v := Vector.replicate 16 0
    pc := Config.resetPc
    i := 0
    stack := []
    dt := 0
    st := 0
    keys := Vector.replicate 16 false
    fb := 0
    loaded := false
    dirty := false
    fault := none
    mem := []
    env := Environment.initial }

end Sys2Proof.Machine
end

