-- ==== Sys2Proof/Machine/Ops.lean ====
section
/-! DEFINITION. The named operations over memory, registers, stack, framebuffer and keys, and raising
a fault, which is all there is of exception entry (60_exceptions.md R218). There is no return from
one: only the host's `Reset` clears a fault (R220). -/

namespace Sys2Proof.Machine

/-! ### Memory (20_memory.md) -/

/-- What an address holds that nothing has written: the font table at 0x000..0x04F, 0x00 elsewhere
(R36, R51, R52). -/
def Memory.initial (a : Nat) : Byte :=
  if a < Config.fontBase + Config.fontLen then Param.font.getD (a - Config.fontBase) 0 else 0

/-- One byte (R33, R55). -/
def Memory.read : Memory → Nat → Byte
  | [], a => Memory.initial a
  | (k, b) :: m, a => if k = a then b else Memory.read m a

/-- Every entry but those at `a`. -/
def Memory.erase (m : Memory) (a : Nat) : Memory := m.filter fun e => e.1 != a

/-- An entry put before the first entry of a higher address. -/
def Memory.insert : Memory → Nat → Byte → Memory
  | [], a, b => [(a, b)]
  | (k, c) :: m, a, b =>
    if a < k then (a, b) :: (k, c) :: m else (k, c) :: Memory.insert m a b

/-- Store one byte, keeping the canonical form: a byte equal to what the address reads as when unlisted
leaves no entry (R10 `MemWrite`, R59: no address is protected). -/
def Memory.write (m : Memory) (a : Nat) (b : Byte) : Memory :=
  if b = Memory.initial a then m.erase a else (m.erase a).insert a b

/-- Store bytes at ascending addresses from `a` (R55). -/
def Memory.writeFrom : Memory → Nat → List Byte → Memory
  | m, _, [] => m
  | m, a, b :: bs => Memory.writeFrom (m.write a b) (a + 1) bs

/-- The canonical form above a bound: addresses rise strictly from `lo`, exist (R50), and no entry
equals what an unlisted address reads as. -/
def Memory.wfFrom : Nat → Memory → Bool
  | _, [] => true
  | lo, (k, b) :: m =>
    lo ≤ k && k < Config.memSize && b != Memory.initial k && Memory.wfFrom (k + 1) m

/-- The canonical form of memory. -/
def Memory.wf (m : Memory) : Bool := Memory.wfFrom 0 m

/-! ### Registers -/

/-- `V[x]`, read (R10, R20). -/
def State.getV (s : State) (x : Reg) : Byte := s.v[x.toNat]'x.isLt

/-- `V[x] <- b` (R10, R20): every register, `VF` included, is written alike. -/
def State.setV (s : State) (x : Reg) (b : Byte) : State :=
  { s with v := s.v.set x.toNat b x.isLt }

/-- `VF` is `V[15]` (R10, R21). -/
def State.vf (s : State) : Byte := s.getV 0xF#4

/-- `pc <- target` (R10, R22). -/
def State.setPc (s : State) (target : Word) : State := { s with pc := target }

/-- `I <- a`, masked only if `I_MASK_12` says so, which it does not (R23). -/
def State.setI (s : State) (a : Word) : State :=
  { s with i := if Param.iMask12 then a &&& 0x0FFF#16 else a }

/-- `next = (pc + 2) mod 65536` (R10). -/
def State.next (s : State) : Word := s.pc + 2#16

/-- `skip = (pc + 4) mod 65536` (R10). -/
def State.skip (s : State) : Word := s.pc + 4#16

/-- `pc <- next`, the advance of every instruction that is no control transfer (R22). -/
def State.advance (s : State) : State := s.setPc s.next

/-- A conditional skip (R120): `pc <- skip` if the condition holds, else `pc <- next`. -/
def State.skipIf (s : State) (condition : Bool) : State :=
  s.setPc (if condition then s.skip else s.next)

/-! ### Call stack (10_state.md R24, R25) -/

/-- `SP`, the number of valid entries (R24). -/
def State.sp (s : State) : Nat := s.stack.length

/-- `Push(v)`; none when the stack is full (R25). -/
def State.push (s : State) (w : Word) : Option State :=
  if s.sp < Param.stackDepth then some { s with stack := s.stack ++ [w] } else none

/-- `Pop()`; none when the stack is empty (R25). -/
def State.pop (s : State) : Option (Word × State) :=
  match s.stack.getLast? with
  | some w => some (w, { s with stack := s.stack.dropLast })
  | none => none

/-! ### Framebuffer (10_state.md R29, 45_display.md R181) -/

/-- The index of the pixel at column `px`, row `py`: `py*64 + px` (R29). -/
def pixelIndex (px py : Nat) : Nat := py * Config.fbWidth + px

/-- `Fb[k]` (R29). -/
def pixelAt (fb : Framebuffer) (k : Nat) : Bool := BitVec.getLsbD fb k

/-- `Fb[k] <- Fb[k] XOR 1` (R181). -/
def flipPixel (fb : Framebuffer) (k : Nat) : Framebuffer := fb ^^^ BitVec.twoPow 2048 k

/-- The pixels that a sprite of `n` rows flips, in the order of R181's loops: for each row `r` and
column `c` whose bit `7 - c` of byte `I + r` is 1, the pixel at column `(vx + c) mod 64` and row
`(vy + r) mod 32`. -/
def spritePixels (m : Memory) (base : Nat) (vx vy : Byte) (n : Nat) : List Nat :=
  (List.range n).flatMap fun r =>
    (List.range 8).filterMap fun c =>
      if (m.read (base + r)).getLsbD (7 - c) then
        some (pixelIndex ((vx.toNat + c) % Config.fbWidth) ((vy.toNat + r) % Config.fbHeight))
      else none

/-- Flip pixels one after the other; the second component becomes true once a pixel that was 1 is
flipped, a collision (R181, R182). -/
def blit : List Nat → Framebuffer × Bool → Framebuffer × Bool
  | [], drawn => drawn
  | k :: ks, (fb, collision) =>
    blit ks (flipPixel fb k, collision || pixelAt fb k)

/-! ### Keys (10_state.md R28) -/

/-- Whether logical key `k` is pressed; an index above 15 names no key and is not pressed (R28, R190,
decision D16). -/
def State.pressed (s : State) (k : Nat) : Bool :=
  if h : k < 16 then s.keys[k]'h else false

/-- The pressed key that `Fx0A` reports: the first one found in the scan order (R192, decision D15). -/
def State.scanKeys (s : State) : Option Nat :=
  match Param.keyWaitPriority with
  | .lowestFirst => (List.range 16).find? s.pressed
  | .highestFirst => (List.range 16).reverse.find? s.pressed

/-! ### The random source (60_exceptions.md R228) -/

/-- `Rnd()`: the byte named by the `Step` in progress, else a free value (log entry 3). -/
def State.random (s : State) : Byte := s.env.rnd.getD (Config.freeByte s.env.draws)

/-- One draw taken (R132: "exactly one draw per executed Cxkk"). -/
def State.drawn (s : State) : State :=
  { s with env := { s.env with rnd := none, draws := s.env.draws + 1 } }

/-- `r` is the byte of the `Step` about to be performed (R228). -/
def State.offerRandom (s : State) (r : Byte) : State :=
  { s with env := { s.env with rnd := some r } }

/-- The step is over and its byte with it (R228: a byte belongs to one `Step`). -/
def State.dropRandom (s : State) : State :=
  { s with env := { s.env with rnd := none } }

/-! ### Raising a fault (60_exceptions.md R211, R218) -/

/-- The numeric code of a cause (R211); 0 is "none". -/
def Cause.code : Cause → Nat
  | .unsupportedOpcode => 1
  | .stackUnderflow => 2
  | .stackOverflow => 3
  | .addressOutOfRange => 4
  | .fetchOutOfRange => 5

/-- `raise C(word, at)`: the fault record is set, with `at` the `pc` of the step, and nothing else
changes (R218). -/
def State.raise (s : State) (cause : Cause) (word : Word) : State :=
  { s with fault := some { cause := cause, word := word, pc := s.pc } }

/-- Apply `f` to the next state, if there is one. -/
def onNext (f : State → State) :
    Host.Outcome State Fault Refusal → Host.Outcome State Fault Refusal
  | .next s => .next (f s)
  | .fault r => .fault r
  | .refused r => .refused r

/-! ### Fetch (20_memory.md R54, R58) -/

/-- The two bytes at `pc` (R54, R58). -/
def State.fetchBytes (s : State) : List Byte :=
  [s.mem.read s.pc.toNat, s.mem.read (s.pc.toNat + 1)]

/-- `w = MemRead(pc, 2) = Mem[pc]*256 + Mem[pc+1]` (R54). -/
def State.fetchWord (s : State) : Word :=
  wordOfBytes (s.mem.read s.pc.toNat) (s.mem.read (s.pc.toNat + 1))

/-- Whether both bytes of the fetch exist: `pc` is at most 0xFFE (R58). -/
def State.canFetch (s : State) : Bool := s.pc.toNat ≤ 0xFFE

/-- `s` about to run the instruction whose word is `w` (numbered as the opcode table numbers it): the
program is loaded, nothing is halted, the host issues `Step` next, and the word lies at `pc` (at
0x200 where nothing can be fetched at `pc`). -/
def State.placeWord (s : State) (nbits w : Nat) : State :=
  let start : Word := if s.canFetch then s.pc else Config.resetPc
  { s with
    mem := s.mem.writeFrom start.toNat (bytesOfWord (tableWord nbits w))
    pc := start
    loaded := true
    fault := none
    env := { s.env with script := [] } }

end Sys2Proof.Machine
end

