-- ==== Sys2Proof/Machine/Flags.lean ====
section
/-! DEFINITION. Every flag computation: the values that land in `VF` (10_state.md R21), each the byte
0x00 or 0x01, and the order of result and flag (43_alu.md R140). -/

namespace Sys2Proof.Machine

/-- A flag as a byte: 0x01 or 0x00 (R21, R140). -/
def flagByte (b : Bool) : Byte := if b then 1#8 else 0#8

/-- Carry out of bit 7: the exact sum exceeds 255 (R145). -/
def carryFlag (a b : Byte) : Byte := flagByte (decide (255 < a.toNat + b.toNat))

/-- "Not borrow" as the source's formula has it: strictly greater, so 0 on equality (R146, R148). -/
def greaterFlag (a b : Byte) : Byte := flagByte (decide (b.toNat < a.toNat))

/-- The bit a right shift by one shifts out (R147). -/
def lowBitFlag (a : Byte) : Byte := flagByte (a.getLsbD 0)

/-- The bit a left shift by one shifts out (R149). -/
def highBitFlag (a : Byte) : Byte := flagByte (a.getLsbD 7)

/-- The result to `V[x]` first, the flag to `VF` second, so that the flag wins for `x = F` (R140). -/
def State.setResultAndFlag (s : State) (x : Reg) (result flag : Byte) : State :=
  (s.setV x result).setV 0xF#4 flag

/-- The result of a logic operation, and 0 to `VF` only if `LOGIC_RESETS_VF` says so (R140, R142). -/
def State.setLogicResult (s : State) (x : Reg) (result : Byte) : State :=
  if Param.logicResetsVF then s.setResultAndFlag x result 0#8 else s.setV x result

end Sys2Proof.Machine
end

