-- ==== Sys2Proof/Machine/Operands.lean ====
section
/-! DEFINITION. The operand forms: immediates (30_encoding.md R72) and the one addressing mode, register
indirect through `I` (44_index_memory.md R160, 20_memory.md R55, R57). -/

namespace Sys2Proof.Machine

/-- `zext_16(nnn)` (R10, R72). -/
def zextAddr (nnn : Addr) : Word := nnn.setWidth 16

/-- `zext_16(b)` (R10). -/
def zextByte (b : Byte) : Word := b.setWidth 16

/-- The register number `i` as the `x` field writes it, for the loops over `V[0..x]` (R165, R166). -/
def regOfNat (i : Nat) : Reg := BitVec.ofNat 4 i

/-- The effective address of an instruction's `k`-th byte: `I + k`, in unbounded integers (R160). -/
def State.dataAddress (s : State) (k : Nat) : Nat := s.i.toNat + k

/-- How many bytes of memory an instruction accesses as data (R57: `n` for `Dxyn`, 3 for `Fx33`,
`x+1` for `Fx55` and `Fx65`; R55 for the others: none). -/
def dataCount : Instr → Nat
  | .drw _ _ n => n.toNat
  | .ldB _ => 3
  | .storeRegs x => x.toNat + 1
  | .loadRegs x => x.toNat + 1
  | .cls => 0
  | .ret => 0
  | .jp _ => 0
  | .call _ => 0
  | .seImm _ _ => 0
  | .sneImm _ _ => 0
  | .seReg _ _ => 0
  | .sneReg _ _ => 0
  | .ldImm _ _ => 0
  | .addImm _ _ => 0
  | .ldReg _ _ => 0
  | .orReg _ _ => 0
  | .andReg _ _ => 0
  | .xorReg _ _ => 0
  | .addReg _ _ => 0
  | .subReg _ _ => 0
  | .shr _ _ => 0
  | .subnReg _ _ => 0
  | .shl _ _ => 0
  | .ldI _ => 0
  | .jpV0 _ => 0
  | .rnd _ _ => 0
  | .skp _ => 0
  | .sknp _ => 0
  | .ldVxDt _ => 0
  | .ldDtVx _ => 0
  | .ldStVx _ => 0
  | .addI _ => 0
  | .ldF _ => 0
  | .ldKey _ => 0

/-- The whole range of `cnt` bytes from `I` exists: it does not iff `cnt > 0` and
`I + cnt - 1 > 0xFFF`, without wrap (R57). -/
def State.dataInRange (s : State) (cnt : Nat) : Bool :=
  cnt = 0 || s.i.toNat + cnt - 1 ≤ 0xFFF

/-- Run an instruction that accesses memory: its whole range is checked before any effect, and a range
that leaves memory raises `AddressOutOfRange` with the instruction's word (R57, R160, R215). -/
def withData (instr : Instr) (s : State) (effect : State → State) :
    Host.Outcome State Fault Refusal :=
  if s.dataInRange (dataCount instr) then .next (effect s)
  else
    match Param.oorPolicy with
    | .fault => .next (s.raise .addressOutOfRange (encode instr))

/-- The registers `V[0..x]` in order (R165). -/
def State.regsUpTo (s : State) (x : Reg) : List Byte :=
  (List.range (x.toNat + 1)).map fun k => s.getV (regOfNat k)

/-- Store bytes at ascending addresses from `I` (R55, R160). -/
def State.storeData (s : State) (bytes : List Byte) : State :=
  { s with mem := s.mem.writeFrom (s.dataAddress 0) bytes }

/-- `V[k] <- MemRead(I + k, 1)` for each `k` in 0..`x` (R166); the other registers keep their values. -/
def State.loadRegsUpTo (s : State) (x : Reg) : State :=
  { s with
    v := Vector.ofFn fun k : Fin 16 =>
      if k.val ≤ x.toNat then s.mem.read (s.dataAddress k.val) else s.v[k.val] }

/-- The three decimal digits of a byte, hundreds first, each in a byte of its own (R164). -/
def decimalDigits (b : Byte) : List Byte :=
  [BitVec.ofNat 8 (b.toNat / 100), BitVec.ofNat 8 (b.toNat / 10 % 10), BitVec.ofNat 8 (b.toNat % 10)]

end Sys2Proof.Machine
end

