-- ==== Sys2Proof/Machine/Alu.lean ====
section
/-! DEFINITION. The register-to-register ALU family (43_alu.md): `8xy0` to `8xy7`, `8xyE`. Operands are
read first, then the result is written, then the flag (R140). None faults. -/

namespace Sys2Proof.Machine

/-- `8xy0` LD Vx, Vy (R141): `V[x] <- V[y]`. -/
def execLdReg (x y : Reg) (s : State) : Host.Outcome State Fault Refusal :=
  .next (s.setV x (s.getV y)).advance

/-- `8xy1` OR Vx, Vy (R142): `V[x] <- V[x] OR V[y]`. -/
def execOrReg (x y : Reg) (s : State) : Host.Outcome State Fault Refusal :=
  .next (s.setLogicResult x (s.getV x ||| s.getV y)).advance

/-- `8xy2` AND Vx, Vy (R143): `V[x] <- V[x] AND V[y]`. -/
def execAndReg (x y : Reg) (s : State) : Host.Outcome State Fault Refusal :=
  .next (s.setLogicResult x (s.getV x &&& s.getV y)).advance

/-- `8xy3` XOR Vx, Vy (R144): `V[x] <- V[x] XOR V[y]`. -/
def execXorReg (x y : Reg) (s : State) : Host.Outcome State Fault Refusal :=
  .next (s.setLogicResult x (s.getV x ^^^ s.getV y)).advance

/-- `8xy4` ADD Vx, Vy (R145): the sum modulo 256, `VF` the carry. -/
def execAddReg (x y : Reg) (s : State) : Host.Outcome State Fault Refusal :=
  let a := s.getV x
  let b := s.getV y
  .next (s.setResultAndFlag x (a + b) (carryFlag a b)).advance

/-- `8xy5` SUB Vx, Vy (R146): `V[x] - V[y]` modulo 256, `VF` = (`V[x] > V[y]`). -/
def execSubReg (x y : Reg) (s : State) : Host.Outcome State Fault Refusal :=
  let a := s.getV x
  let b := s.getV y
  .next (s.setResultAndFlag x (a - b) (greaterFlag a b)).advance

/-- The register a shift takes its operand from (R147, `SHIFT_SOURCE`). -/
def State.shiftOperand (s : State) (x y : Reg) : Byte :=
  match Param.shiftSource with
  | .vx => s.getV x
  | .vy => s.getV y

/-- `8xy6` SHR Vx (R147): logical shift right by one, `VF` the bit shifted out. -/
def execShr (x y : Reg) (s : State) : Host.Outcome State Fault Refusal :=
  let a := s.shiftOperand x y
  .next (s.setResultAndFlag x (a >>> 1) (lowBitFlag a)).advance

/-- `8xy7` SUBN Vx, Vy (R148): `V[y] - V[x]` modulo 256, `VF` = (`V[y] > V[x]`). -/
def execSubnReg (x y : Reg) (s : State) : Host.Outcome State Fault Refusal :=
  let a := s.getV x
  let b := s.getV y
  .next (s.setResultAndFlag x (b - a) (greaterFlag b a)).advance

/-- `8xyE` SHL Vx (R149): shift left by one, `VF` the bit shifted out. -/
def execShl (x y : Reg) (s : State) : Host.Outcome State Fault Refusal :=
  let a := s.shiftOperand x y
  .next (s.setResultAndFlag x (a <<< 1) (highBitFlag a)).advance

end Sys2Proof.Machine
end

