-- ==== Sys2Proof/Machine/Control.lean ====
section
/-! DEFINITION. Control transfer (40_control_transfer.md): `00EE`, `1nnn`, `2nnn`, `Bnnn`. There are no
delay slots and a target is never validated here (R104). -/

namespace Sys2Proof.Machine

/-- `00EE` RET (R100): `pc <- Pop()`; on an empty stack `StackUnderflow` (R213). -/
def execRet (s : State) : Host.Outcome State Fault Refusal :=
  match s.pop with
  | some (target, t) => .next (t.setPc target)
  | none =>
    match Param.underflowPolicy with
    | .fault => .next (s.raise .stackUnderflow (encode .ret))
    | .resumeAtZero => .next (s.setPc 0#16)

/-- `1nnn` JP nnn (R101): `pc <- zext_16(nnn)`. -/
def execJp (nnn : Addr) (s : State) : Host.Outcome State Fault Refusal :=
  .next (s.setPc (zextAddr nnn))

/-- `2nnn` CALL nnn (R102): `Push(next); pc <- zext_16(nnn)`; on a full stack `StackOverflow` (R214). -/
def execCall (nnn : Addr) (s : State) : Host.Outcome State Fault Refusal :=
  match s.push s.next with
  | some t => .next (t.setPc (zextAddr nnn))
  | none => .next (s.raise .stackOverflow (encode (.call nnn)))

/-- `Bnnn` JP V0, nnn (R103): `pc <- (zext_16(nnn) + zext_16(V[0])) mod 65536`. -/
def execJpV0 (nnn : Addr) (s : State) : Host.Outcome State Fault Refusal :=
  .next (s.setPc (zextAddr nnn + zextByte (s.getV 0#4)))

end Sys2Proof.Machine
end

