-- ==== Sys2Proof/Machine/Display.lean ====
section
/-! DEFINITION. Display instructions (45_display.md): `00E0`, `Dxyn`. -/

namespace Sys2Proof.Machine

/-- `00E0` CLS (R180): every pixel 0; `dirty` is set only if `CLS_SETS_DIRTY` says so, which it does
not (decision D14). -/
def execCls (s : State) : Host.Outcome State Fault Refusal :=
  .next { s with fb := 0, dirty := s.dirty || Param.clsSetsDirty }.advance

/-- Draw the `n`-row sprite at `I` at (`V[x]`, `V[y]`): pixels, then `VF`, then `dirty` (R181). -/
def State.drawSprite (s : State) (x y : Reg) (n : Nibble) : State :=
  let drawn :=
    blit (spritePixels s.mem (s.dataAddress 0) (s.getV x) (s.getV y) n.toNat) (s.fb, false)
  { (s.setV 0xF#4 (flagByte drawn.2)) with fb := drawn.1, dirty := true }

/-- `Dxyn` DRW Vx, Vy, n (R181): coordinates are read before `VF` is written; with `n = 0` nothing is
read and nothing can fault. -/
def execDrw (x y : Reg) (n : Nibble) (s : State) : Host.Outcome State Fault Refusal :=
  withData (.drw x y n) s fun t => (t.drawSprite x y n).advance

end Sys2Proof.Machine
end

