-- ==== Sys2Proof/Machine/Immediate.lean ====
section
/-! DEFINITION. Immediate loads (42_immediate.md): `6xkk`, `7xkk`, `Cxkk`. None writes a flag or faults. -/

namespace Sys2Proof.Machine

/-- `6xkk` LD Vx, kk (R130): `V[x] <- kk`. -/
def execLdImm (x : Reg) (kk : Byte) (s : State) : Host.Outcome State Fault Refusal :=
  .next (s.setV x kk).advance

/-- `7xkk` ADD Vx, kk (R131): `V[x] <- (V[x] + kk) mod 256`, no flag. -/
def execAddImm (x : Reg) (kk : Byte) (s : State) : Host.Outcome State Fault Refusal :=
  .next (s.setV x (s.getV x + kk)).advance

/-- `Cxkk` RND Vx, kk (R132): `V[x] <- Rnd() AND kk`, one draw. -/
def execRnd (x : Reg) (kk : Byte) (s : State) : Host.Outcome State Fault Refusal :=
  .next (s.drawn.setV x (s.random &&& kk)).advance

end Sys2Proof.Machine
end

