-- ==== Sys2Proof/Machine/IndexMemory.lean ====
section
/-! DEFINITION. Index register and memory instructions (44_index_memory.md): `Annn`, `Fx1E`, `Fx29`,
`Fx33`, `Fx55`, `Fx65`. The last three fault with no effect at all when their range leaves memory. -/

namespace Sys2Proof.Machine

/-- `Annn` LD I, nnn (R161): `I <- zext_16(nnn)`. -/
def execLdI (nnn : Addr) (s : State) : Host.Outcome State Fault Refusal :=
  .next (s.setI (zextAddr nnn)).advance

/-- `Fx1E` ADD I, Vx (R162): `I <- (I + zext_16(V[x])) mod 65536`, no flag. -/
def execAddI (x : Reg) (s : State) : Host.Outcome State Fault Refusal :=
  .next (s.setI (s.i + zextByte (s.getV x))).advance

/-- `Fx29` LD F, Vx (R163): `I <- zext_16(V[x]) * 5`, the whole byte multiplied. -/
def execLdF (x : Reg) (s : State) : Host.Outcome State Fault Refusal :=
  .next (s.setI (zextByte (s.getV x) * 5#16)).advance

/-- `Fx33` LD B, Vx (R164): the three decimal digits of `V[x]` at `I`, `I+1`, `I+2`. -/
def execLdB (x : Reg) (s : State) : Host.Outcome State Fault Refusal :=
  withData (.ldB x) s fun t => (t.storeData (decimalDigits (t.getV x))).advance

/-- `Fx55` LD [I], Vx (R165): `V[0..x]` at `I` upward; `I` is not changed. -/
def execStoreRegs (x : Reg) (s : State) : Host.Outcome State Fault Refusal :=
  withData (.storeRegs x) s fun t => (t.storeData (t.regsUpTo x)).advance

/-- `Fx65` LD Vx, [I] (R166): `V[0..x]` from `I` upward, then `I <- (I + x + 1) mod 65536`. -/
def execLoadRegs (x : Reg) (s : State) : Host.Outcome State Fault Refusal :=
  withData (.loadRegs x) s fun t =>
    ((t.loadRegsUpTo x).setI (t.i + (x.setWidth 16 + 1#16))).advance

end Sys2Proof.Machine
end

