-- ==== Sys2Proof/Machine/KeysTimers.lean ====
section
/-! DEFINITION. Key and timer instructions (46_keys_timers.md): `Ex9E`, `ExA1`, `Fx0A`, `Fx07`, `Fx15`,
`Fx18`. None accesses memory or faults. -/

namespace Sys2Proof.Machine

/-- `Ex9E` SKP Vx (R190): skip if the key named by `V[x]` is pressed. -/
def execSkp (x : Reg) (s : State) : Host.Outcome State Fault Refusal :=
  .next (s.skipIf (s.pressed (s.getV x).toNat))

/-- `ExA1` SKNP Vx (R191): skip if the key named by `V[x]` is not pressed. -/
def execSknp (x : Reg) (s : State) : Host.Outcome State Fault Refusal :=
  .next (s.skipIf (!s.pressed (s.getV x).toNat))

/-- `Fx07` LD Vx, DT (R193): `V[x] <- DT`. -/
def execLdVxDt (x : Reg) (s : State) : Host.Outcome State Fault Refusal :=
  .next (s.setV x s.dt).advance

/-- `Fx15` LD DT, Vx (R194): `DT <- V[x]`. -/
def execLdDtVx (x : Reg) (s : State) : Host.Outcome State Fault Refusal :=
  .next { s with dt := s.getV x }.advance

/-- `Fx18` LD ST, Vx (R195): `ST <- V[x]`; no `SoundZero` (R225). -/
def execLdStVx (x : Reg) (s : State) : Host.Outcome State Fault Refusal :=
  .next { s with st := s.getV x }.advance

/-- `Fx0A` LD Vx, K (R192): if a key is pressed, `V[x]` takes its index; else nothing changes, `pc`
included, and the next step runs the same word again. -/
def execLdKey (x : Reg) (s : State) : Host.Outcome State Fault Refusal :=
  match s.scanKeys with
  | some k => .next (s.setV x (BitVec.ofNat 8 k)).advance
  | none => .next s

end Sys2Proof.Machine
end

