-- ==== Sys2Proof/Machine/Events.lean ====
section
/-! DEFINITION. The host events (60_exceptions.md R222): `Step`, which fetches, decodes and executes one
instruction (R230), and the six others; the outputs (R227); which event comes next; and the host's
load and tick sequences (70_reset_and_hazards.md R242, R231). -/

namespace Sys2Proof.Machine

/-- `Step`: one instruction, or nothing while not loaded or halted (R230). The tests stand in the order
of R217: gate, latch, fetch, decode, execute. -/
def stepInstr (s : State) : Host.Outcome State Fault Refusal :=
  if s.loaded = false then .next s
  else if s.fault.isSome then .next s
  else if s.canFetch = false then .next (s.raise .fetchOutOfRange 0#16)
  else
    match decodeWord s.fetchWord with
    | .ok i => exec i s
    | .error _ => .next (s.raise .unsupportedOpcode s.fetchWord)

/-- `Reset`: every piece of the Machine's state takes its reset value, whatever it was (R240). What the
host has yet to do, and what it has seen, is the host's and stays. -/
def State.resetEvent (s : State) : State := { State.reset with env := s.env }

/-- `RomWrite(j, b)`: `Mem[0x200 + j] <- b` (R229). -/
def State.romWrite (s : State) (j : Nat) (b : Byte) : State :=
  { s with mem := s.mem.write (Config.progBase + j) b }

/-- One timer's countdown, "never decremented below zero" (R26, R224). -/
def countDown (t : Byte) : Byte := if 0#8 < t then t - 1#8 else t

/-- `TimerTick`: both timers count down, each on its own, and `SoundZero` is emitted when the sound timer
goes from 1 to 0 (R224, R225). Neither `loaded` nor `fault` gates it. -/
def State.timerTick (s : State) : State :=
  let emitted := if 0#8 < s.st ∧ countDown s.st = 0#8 then 1 else 0
  { s with
    dt := countDown s.dt
    st := countDown s.st
    env := { s.env with soundZeros := s.env.soundZeros + emitted } }

/-- Perform one host event (R222). A `RomWrite` the interface does not offer stops the run (R229). -/
def performEvent (e : Event) (s : State) : Host.Outcome State Fault Refusal :=
  match e with
  | .reset => .next s.resetEvent
  | .romWrite j b =>
    if s.loaded then .fault (.romWriteAfterLoad j)
    else if romOffsetWellFormed j then .next (s.romWrite j b)
    else .refused (.romWriteOutsideProgramArea j)
  | .loadDone => .next { s with loaded := true }
  | .sampleKeys keys => .next { s with keys := keys }
  | .step r => onNext State.dropRandom (stepInstr (s.offerRandom r))
  | .timerTick => .next s.timerTick
  | .frameAck => .next { s with dirty := false }

/-- The host's next event is taken from its script. -/
def State.takeEvent (s : State) (rest : List Event) : State :=
  { s with env := { s.env with script := rest } }

/-- The host issues its next event, which is performed completely (R6, R222); with no event named it
issues `Step` with a byte of its own (R228). -/
def nextEvent (s : State) : Host.Outcome State Fault Refusal :=
  match s.env.script with
  | [] => stepInstr s
  | e :: rest => performEvent e (s.takeEvent rest)

/-- The outputs the host may read at every event boundary (R227). `SoundZero` is counted in
`Environment.soundZeros`. -/
def State.outputs (s : State) : Framebuffer × Bool × Option FaultRecord := (s.fb, s.dirty, s.fault)

/-- `RomWrite` of every byte of an image from offset `j` on (R53, R242). -/
def romWrites : Nat → List Byte → List Event
  | _, [] => []
  | j, b :: bs => .romWrite j b :: romWrites (j + 1) bs

/-- What the host must do, in order, before a program runs (R242). -/
def loadScript (image : List Byte) : List Event := .reset :: (romWrites 0 image ++ [.loadDone])

/-- One tick of the reference host (R231): sample the keys, `STEPS_PER_TICK` steps with a random byte
each, acknowledge the frame, tick the timers. The Machine enforces no schedule. -/
def referenceTick (keys : Vector Bool 16) (bytes : Vector Byte Config.stepsPerTick) : List Event :=
  .sampleKeys keys :: (bytes.toList.map Event.step ++ [.frameAck, .timerTick])

end Sys2Proof.Machine
end

