-- ==== Sys2Proof/Safety.lean ====
section
/-! DEFINITION. What claims are made of: when a run is safe, the invariants of the machine, and the
access table of 10_state.md R35. -/

namespace Sys2Proof

open Sys2Proof.Machine

/-- Halted: a fault is latched (60_exceptions.md R219). -/
def Halted (s : State) : Prop := s.fault ≠ none

/-- A safe state has not gone wrong: "a model should treat any state with `fault` not `none` as gone
wrong" (R219). -/
def Safe (s : State) : Prop := s.fault = none

/-- The model's own end of a run (70_reset_and_hazards.md R249, decision D24): `pc` addresses a `1nnn`
whose `nnn` is `pc`. It says nothing of the hardware, which keeps stepping. -/
def AtSelfJump (s : State) : Prop :=
  s.fault = none ∧ ∃ nnn, decodeWord s.fetchWord = .ok (.jp nnn) ∧ zextAddr nnn = s.pc

/-- The host issues `Step` next: it names one, or names no event (60_exceptions.md R222). -/
def StepIsNext (s : State) : Prop := s.env.script = [] ∨ ∃ r es, s.env.script = .step r :: es

/-- The stack holds at most 16 return addresses (R24). -/
def StackBounded (s : State) : Prop := s.sp ≤ 16

/-- Memory is in its one canonical form. -/
def MemoryCanonical (s : State) : Prop := s.mem.wf = true

/-- What the fault record of a halted machine says is what the state still shows (R211, R218): the cause,
the word and the `pc` are those of the step that raised it. -/
def RecordExplains (s : State) (f : FaultRecord) : Prop :=
  f.pc = s.pc ∧
    match f.cause with
    | .unsupportedOpcode =>
      s.canFetch = true ∧ f.word = s.fetchWord ∧ decodeWord f.word = .error (.unsupported f.word)
    | .stackUnderflow =>
      s.canFetch = true ∧ f.word = s.fetchWord ∧ f.word = 0x00EE#16 ∧ s.sp = 0
    | .stackOverflow =>
      s.canFetch = true ∧ f.word = s.fetchWord ∧ (∃ nnn, decodeWord f.word = .ok (.call nnn)) ∧
        16 ≤ s.sp
    | .addressOutOfRange =>
      s.canFetch = true ∧ f.word = s.fetchWord ∧
        ∃ i, decodeWord f.word = .ok i ∧ 0 < dataCount i ∧ 0xFFF < s.i.toNat + dataCount i - 1
    | .fetchOutOfRange => 0xFFE < s.pc.toNat ∧ f.word = 0#16

/-- A latched fault is one that the state explains, and only a loaded machine has one (R217, R230). -/
def FaultExplained (s : State) : Prop :=
  ∀ f, s.fault = some f → s.loaded = true ∧ RecordExplains s f

/-- The `V` columns of R35: whether the instruction writes `V[j]`, as its result or as its flag. -/
def writesV : Instr → Reg → Bool
  | .ldImm x _, j => j == x
  | .addImm x _, j => j == x
  | .ldReg x _, j => j == x
  | .orReg x _, j => j == x
  | .andReg x _, j => j == x
  | .xorReg x _, j => j == x
  | .addReg x _, j => j == x || j == 0xF#4
  | .subReg x _, j => j == x || j == 0xF#4
  | .subnReg x _, j => j == x || j == 0xF#4
  | .shr x _, j => j == x || j == 0xF#4
  | .shl x _, j => j == x || j == 0xF#4
  | .rnd x _, j => j == x
  | .drw _ _ _, j => j == 0xF#4
  | .ldVxDt x, j => j == x
  | .ldKey x, j => j == x
  | .loadRegs x, j => j.toNat ≤ x.toNat
  | .cls, _ | .ret, _ | .jp _, _ | .call _, _ | .seImm _ _, _ | .sneImm _ _, _ | .seReg _ _, _
  | .sneReg _ _, _ | .ldI _, _ | .jpV0 _, _ | .skp _, _ | .sknp _, _ | .ldDtVx _, _ | .ldStVx _, _
  | .addI _, _ | .ldF _, _ | .ldB _, _ | .storeRegs _, _ => false

/-- The `I` column of R35. -/
def writesI (i : Instr) : Prop :=
  (∃ nnn, i = .ldI nnn) ∨ (∃ x, i = .addI x) ∨ (∃ x, i = .ldF x) ∨ ∃ x, i = .loadRegs x

/-- The `Stack/SP` column of R35. -/
def writesStack (i : Instr) : Prop := i = .ret ∨ ∃ nnn, i = .call nnn

/-- The `Mem (data)` column of R35, writes: how many bytes from `I` the instruction stores to. -/
def storedCount (i : Instr) : Nat :=
  match i with
  | .ldB _ => 3
  | .storeRegs x => x.toNat + 1
  | _ => 0

/-- The instructions that write `VF` as a side effect, exactly these (10_state.md R21). -/
def isFlagWriter (i : Instr) : Prop :=
  (∃ x y, i = .addReg x y) ∨ (∃ x y, i = .subReg x y) ∨ (∃ x y, i = .subnReg x y) ∨
    (∃ x y, i = .shr x y) ∨ (∃ x y, i = .shl x y) ∨ ∃ x y n, i = .drw x y n

/-- When an instruction raises which fault (60_exceptions.md R211): `00EE` on an empty stack, `2nnn` on a
full one, and a data range that leaves memory. The two other causes belong to the fetch and the decoder. -/
def Raises (i : Instr) (s : State) : Cause → Prop
  | .stackUnderflow => i = .ret ∧ s.sp = 0
  | .stackOverflow => (∃ nnn, i = .call nnn) ∧ 16 ≤ s.sp
  | .addressOutOfRange => 0 < dataCount i ∧ 0xFFF < s.i.toNat + dataCount i - 1
  | .unsupportedOpcode => False
  | .fetchOutOfRange => False

/-- Pixel `k` lies under a 1 bit of the sprite that `Dxyn` draws in state `s` (45_display.md R181): bit
`7 - c` of the byte at `I + r` is 1, at column `(V[x] + c) mod 64` and row `(V[y] + r) mod 32`. -/
def SpritePixel (s : State) (x y : Reg) (n : Nibble) (k : Nat) : Prop :=
  ∃ r c, r < n.toNat ∧ c < 8 ∧ (s.mem.read (s.i.toNat + r)).getLsbD (7 - c) = true ∧
    k = ((s.getV y).toNat + r) % 32 * 64 + ((s.getV x).toNat + c) % 64

/-- The six conditional skips (10_state.md R22). -/
def isSkip (i : Instr) : Prop :=
  (∃ x kk, i = .seImm x kk) ∨ (∃ x kk, i = .sneImm x kk) ∨ (∃ x y, i = .seReg x y) ∨
    (∃ x y, i = .sneReg x y) ∨ (∃ x, i = .skp x) ∨ ∃ x, i = .sknp x

/-- The instructions that set `pc` explicitly (00_scope.md R11). -/
def isTransfer (i : Instr) : Prop :=
  i = .ret ∨ (∃ nnn, i = .jp nnn) ∨ (∃ nnn, i = .call nnn) ∨ ∃ nnn, i = .jpV0 nnn

end Sys2Proof
end

