-- ==== Sys2Proof/Certificates/Slice0/Obligations.lean ====
section
/-! DEFINITION. The statements for the provers. Where a statement rests on one of the spec's own decisions
(92_eei_decisions.md D<n>) its docstring names it. A next state is written `t = { s with … }`: the fields
named may change as the other clauses say, and every field not named is as it was. -/

open Sys2Proof Sys2Proof.Machine

/-! ### Encoding (30_encoding.md) -/

/-- R72, R73: words written out from the encodings decode to their instructions, and the fields of the
word 0xD7A5 are those of 95_test_vectors.md 2.1. -/
def Obligations.SampleWordsDecode : Prop :=
  decodeWord 0x00E0 = .ok .cls ∧ decodeWord 0x00EE = .ok .ret ∧
  decodeWord 0x1234 = .ok (.jp 0x234) ∧ decodeWord 0x3A42 = .ok (.seImm 0xA 0x42) ∧
  decodeWord 0x5120 = .ok (.seReg 1 2) ∧ decodeWord 0x6005 = .ok (.ldImm 0 0x05) ∧
  decodeWord 0x8F25 = .ok (.subReg 0xF 2) ∧ decodeWord 0xB201 = .ok (.jpV0 0x201) ∧
  decodeWord 0xD125 = .ok (.drw 1 2 5) ∧ decodeWord 0xE39E = .ok (.skp 3) ∧
  decodeWord 0xF265 = .ok (.loadRegs 2) ∧ decodeWord 0x5121 = .error (.unsupported 0x5121) ∧
  fieldH 0xD7A5 = 0xD ∧ fieldX 0xD7A5 = 7 ∧ fieldY 0xD7A5 = 0xA ∧ fieldN 0xD7A5 = 5 ∧
  fieldKK 0xD7A5 = 0xA5 ∧ fieldNNN 0xD7A5 = 0x7A5

/-- R71 to R78: decoding the encoded instruction gives it back, for every instruction and operand. -/
def Obligations.DecodeOfEncodeIsIdentity : Prop :=
  ∀ i : Instr, decodeWord (encode i) = .ok i

/-- R72, R79: a word that decodes is the encoding of what it decodes to, so no bit is dropped and no two
words are one instruction. -/
def Obligations.EncodeOfDecodeIsIdentity : Prop :=
  ∀ (w : Word) (i : Instr), decodeWord w = .ok i → encode i = w

/-- R80: "a word `w` selects the row iff `w AND mask = match`; the rows are pairwise disjoint", the row
being that of the instruction decoded. The membership of the 0x8 group is decision D10. -/
def Obligations.WordDecodesToTheRowItSelects : Prop :=
  (∀ (w : Word) (i : Instr), decodeWord w = .ok i → i.row ∈ opcodeMap ∧ i.row.selects w = true) ∧
  (∀ (w : Word) (r : OpcodeRow), r ∈ opcodeMap → r.selects w = true →
    ∃ i, decodeWord w = .ok i ∧ i.row = r) ∧
  opcodeMap.Pairwise fun r r' => ∀ w, ¬(r.selects w = true ∧ r'.selects w = true)

/-- R79: the Unsupported set, field by field (decisions D9, D10). -/
def Obligations.UnsupportedWordsAreExactlyThese : Prop :=
  ∀ w : Word, decodeWord w = .error (.unsupported w) ↔
    (fieldH w = 0x0 ∧ w ≠ 0x00E0 ∧ w ≠ 0x00EE) ∨
    ((fieldH w = 0x5 ∨ fieldH w = 0x9) ∧ fieldN w ≠ 0x0) ∨
    (fieldH w = 0x8 ∧ (8 ≤ (fieldN w).toNat ∧ fieldN w ≠ 0xE)) ∨
    (fieldH w = 0xE ∧ fieldKK w ≠ 0x9E ∧ fieldKK w ≠ 0xA1) ∨
    (fieldH w = 0xF ∧
      fieldKK w ∉ [0x07#8, 0x0A#8, 0x15#8, 0x18#8, 0x1E#8, 0x29#8, 0x33#8, 0x55#8, 0x65#8])

/-- The host's two hooks, for every instruction and state: the decoder reads the table's word as it
reads the instruction's, and the very next step runs the instruction placed. The model's own. -/
def Obligations.PlacedWordIsDecodedAndRuns : Prop :=
  (∀ (w : Word) (i : Instr), decodeTableWord 16 w.toNat = some i ↔ decodeWord w = .ok i) ∧
  ∀ (s : State) (i : Instr),
    step (s.withFetchWord 16 (encode i).toNat) = exec i (s.withFetchWord 16 (encode i).toNat)

/-! ### Fetch and `Step` (20_memory.md, 60_exceptions.md) -/

/-- R54: `w = Mem[pc]*256 + Mem[pc+1]`, the byte at the lower address high. -/
def Obligations.FetchIsBigEndian : Prop :=
  ∀ s : State,
    s.fetchWord.toNat = (s.mem.read s.pc.toNat).toNat * 256 + (s.mem.read (s.pc.toNat + 1)).toNat ∧
    s.fetchWord.extractLsb' 8 8 = s.mem.read s.pc.toNat ∧
    fieldKK s.fetchWord = s.mem.read (s.pc.toNat + 1)

/-- R230: a step runs the decoded instruction. With no event named by the host, the step is `exec` of it
at this very state; with `Step(r)` named, the event is taken, `r` offered before and dropped after. -/
def Obligations.StepRunsTheDecodedInstruction : Prop :=
  ∀ (s : State) (i : Instr), s.loaded = true → s.fault = none → s.pc.toNat ≤ 0xFFE →
    decodeWord s.fetchWord = .ok i →
    (s.env.script = [] → step s = exec i s) ∧
    ∀ r es, s.env.script = .step r :: es →
      step s = onNext State.dropRandom (exec i ((s.takeEvent es).offerRandom r))

/-- R230 ("A no-op step changes no state whatever, `pc` included"), R219: while not loaded, or halted, a
step does nothing. The no-op while halted is decision D8. -/
def Obligations.StepDoesNothingUnlessRunning : Prop :=
  ∀ s : State, s.loaded = false ∨ s.fault ≠ none →
    (s.env.script = [] → step s = .next s) ∧
    ∀ r es, s.env.script = .step r :: es →
      step s = .next { s with env := { s.env with script := es, rnd := none } }

/-- R216, R212, R217: a fetch above 0xFFE and a word of no instruction raise their faults, in that order,
and change nothing else (decisions D6, D8, D9), with no event named by the host and with `Step(r)` named;
the named event is taken from the script and its byte is gone after it. -/
def Obligations.FetchAndDecodeRaiseTheirFaults : Prop :=
  ∀ s : State, s.loaded = true → s.fault = none →
    (0xFFE < s.pc.toNat →
      (s.env.script = [] →
        step s = .next { s with fault := some ⟨.fetchOutOfRange, 0x0000, s.pc⟩ }) ∧
      ∀ r es, s.env.script = .step r :: es →
        step s = .next { s with
          fault := some ⟨.fetchOutOfRange, 0x0000, s.pc⟩
          env := { s.env with script := es, rnd := none } }) ∧
    (s.pc.toNat ≤ 0xFFE → (∀ i, decodeWord s.fetchWord ≠ .ok i) →
      (s.env.script = [] →
        step s = .next { s with fault := some ⟨.unsupportedOpcode, s.fetchWord, s.pc⟩ }) ∧
      ∀ r es, s.env.script = .step r :: es →
        step s = .next { s with
          fault := some ⟨.unsupportedOpcode, s.fetchWord, s.pc⟩
          env := { s.env with script := es, rnd := none } })

/-! ### Reset and the host's other events (60_exceptions.md, 70_reset_and_hazards.md) -/

/-- R36: the state after `Reset`. The source gives `pc`, `loaded`, the place of the font and the empty
stack; the font's bytes (D18) and the zeros (D2, D14) are the spec's decisions. -/
def Obligations.ResetStateIsAsListed : Prop :=
  State.reset.pc = 0x0200 ∧ State.reset.loaded = false ∧ State.reset.fault = none ∧
  State.reset.sp = 0 ∧ State.reset.i = 0 ∧ State.reset.dt = 0 ∧ State.reset.st = 0 ∧
  State.reset.dirty = false ∧ (∀ j, State.reset.getV j = 0) ∧
  (∀ k, State.reset.pressed k = false) ∧ (∀ k, pixelAt State.reset.fb k = false) ∧
  (∀ a, a < 80 → State.reset.mem.read a = Param.font.getD a 0) ∧
  ∀ a, 80 ≤ a → State.reset.mem.read a = 0

/-- R240: `Reset` sets every piece of state to its reset value, whatever it was (decision D1); what the
host has yet to do is the host's. -/
def Obligations.ResetRestoresEverything : Prop :=
  ∀ (s : State) es, s.env.script = .reset :: es →
    step s = .next { State.reset with env := { s.env with script := es } }

/-- R229: `RomWrite` stores its byte while not loaded; `LoadDone` opens the gate; the order of the writes
is irrelevant (equal memories are equal data, so the two states are the same). -/
def Obligations.RomIsLoadedByteByByte : Prop :=
  (∀ (s : State) j b es, s.env.script = .romWrite j b :: es → s.loaded = false → j < 3584 →
    ∃ t, step s = .next t ∧ t = { s with mem := t.mem, env := { s.env with script := es } } ∧
      ∀ a, t.mem.read a = if a = 0x200 + j then b else s.mem.read a) ∧
  (∀ (s : State) es, s.env.script = .loadDone :: es →
    step s = .next { s with loaded := true, env := { s.env with script := es } }) ∧
  ∀ (s : State) j k b c es, MemoryCanonical s → s.loaded = false → j < 3584 → k < 3584 → j ≠ k →
    core.run 2 (s.takeEvent (.romWrite j b :: .romWrite k c :: es)) =
      core.run 2 (s.takeEvent (.romWrite k c :: .romWrite j b :: es))

/-- R241, R242: after `Reset`, the `RomWrite`s of an image and `LoadDone`, the machine stands at 0x200 with
the image in memory, and the first two bytes of the image are the first instruction. -/
def Obligations.LoadedProgramStartsAtItsFirstWord : Prop :=
  ∀ (s : State) (image : List Byte) es, image.length ≤ 3584 →
    s.env.script = loadScript image ++ es →
    ∃ t, core.run (image.length + 2) s = .next t ∧ t.loaded = true ∧ t.fault = none ∧
      t.pc = 0x0200 ∧ t.env.script = es ∧
      (∀ j (h : j < image.length), t.mem.read (0x200 + j) = image[j]) ∧
      ∀ hi lo rest, image = hi :: lo :: rest → t.fetchWord = wordOfBytes hi lo

/-- R224, R225: a tick takes one from each timer above zero, and emits `SoundZero` exactly when the sound
timer goes from 1 to 0. Neither `loaded` nor `fault` gates it (decision D21). -/
def Obligations.TimerTickCountsDown : Prop :=
  ∀ (s : State) es, s.env.script = .timerTick :: es →
    ∃ t, step s = .next t ∧
      t = { s with
        dt := t.dt, st := t.st
        env := { s.env with
          script := es, soundZeros := s.env.soundZeros + if s.st = 1 then 1 else 0 } } ∧
      t.dt.toNat = s.dt.toNat - 1 ∧ t.st.toNat = s.st.toNat - 1

/-- R224, 95_test_vectors.md S9: `k` ticks take each timer to its value less `k`, never below zero, and
emit `SoundZero` once if the sound timer runs out in them (decision D21). -/
def Obligations.TicksRunTheTimersOut : Prop :=
  ∀ (s : State) (k : Nat) es, s.env.script = List.replicate k .timerTick ++ es →
    ∃ t, core.run k s = .next t ∧ t.dt.toNat = s.dt.toNat - k ∧ t.st.toNat = s.st.toNat - k ∧
      t.env.soundZeros =
        s.env.soundZeros + (if 0 < s.st.toNat ∧ s.st.toNat ≤ k then 1 else 0) ∧
      t = { s with
        dt := t.dt, st := t.st
        env := { s.env with script := es, soundZeros := t.env.soundZeros } }

/-- R226, R227: `SampleKeys` overwrites the key table and `FrameAck` clears `dirty`, and nothing else
(decisions D14, D22). -/
def Obligations.SampleKeysAndFrameAckDoJustThat : Prop :=
  (∀ (s : State) keys es, s.env.script = .sampleKeys keys :: es →
    step s = .next { s with keys := keys, env := { s.env with script := es } }) ∧
  ∀ (s : State) es, s.env.script = .frameAck :: es →
    step s = .next { s with dirty := false, env := { s.env with script := es } }

/-! ### Control transfer (40_control_transfer.md) -/

/-- R101, R103: the two jumps write `pc` and nothing else; a target above 0xFFE cannot be fetched. -/
def Obligations.JumpsGoToTheirTargets : Prop :=
  ∀ (nnn : Addr) (s : State),
    (∃ t, exec (.jp nnn) s = .next t ∧ t = { s with pc := t.pc } ∧ t.pc.toNat = nnn.toNat ∧
      (t.canFetch = false ↔ nnn = 0xFFF)) ∧
    ∃ t, exec (.jpV0 nnn) s = .next t ∧ t = { s with pc := t.pc } ∧
      t.pc.toNat = nnn.toNat + (s.getV 0).toNat ∧
      (t.canFetch = false ↔ 0xFFE < nnn.toNat + (s.getV 0).toNat)

/-- R102, R100: a call with room pushes the address after it and jumps; a return with something to pop
goes to it. The bound of 16 is decision D3. -/
def Obligations.CallPushesAndReturnPops : Prop :=
  (∀ (nnn : Addr) (s : State), s.sp < 16 →
    ∃ t, exec (.call nnn) s = .next t ∧ t.pc.toNat = nnn.toNat ∧
      t = { s with stack := s.stack ++ [s.pc + 2#16], pc := t.pc }) ∧
  ∀ (s : State) (rest : List Word) (target : Word), s.stack = rest ++ [target] →
    exec .ret s = .next { s with stack := rest, pc := target }

/-- 95_test_vectors.md S6, R102: whatever happens after a call, a return made with the stack as the call
left it resumes after the call, with the stack as it was before. Decision D3 for the bound. -/
def Obligations.ReturnResumesAfterTheCall : Prop :=
  ∀ (nnn : Addr) (s : State), s.sp < 16 →
    ∃ t, exec (.call nnn) s = .next t ∧
      ∀ u : State, u.stack = t.stack →
        exec .ret u = .next { u with stack := s.stack, pc := s.pc + 2#16 }

/-! ### Conditional skips (41_conditional_skip.md, 46_keys_timers.md) -/

/-- R121 to R124: a skip writes `pc` alone, 4 further if its condition holds, else 2. -/
def Obligations.RegisterSkipsTestEquality : Prop :=
  ∀ (x y : Reg) (kk : Byte) (s : State),
    exec (.seImm x kk) s =
      .next { s with pc := if s.getV x = kk then s.pc + 4#16 else s.pc + 2#16 } ∧
    exec (.sneImm x kk) s =
      .next { s with pc := if s.getV x ≠ kk then s.pc + 4#16 else s.pc + 2#16 } ∧
    exec (.seReg x y) s =
      .next { s with pc := if s.getV x = s.getV y then s.pc + 4#16 else s.pc + 2#16 } ∧
    exec (.sneReg x y) s =
      .next { s with pc := if s.getV x ≠ s.getV y then s.pc + 4#16 else s.pc + 2#16 }

/-- R190, R191: `Ex9E` skips iff the key is pressed, `ExA1` iff not; `V[x]` above 15 names no key, which
is not pressed (decision D16). -/
def Obligations.KeySkipsTestTheKey : Prop :=
  ∀ (x : Reg) (s : State),
    (∀ h : (s.getV x).toNat < 16, s.keys[(s.getV x).toNat] = true →
      exec (.skp x) s = .next { s with pc := s.pc + 4#16 } ∧
      exec (.sknp x) s = .next { s with pc := s.pc + 2#16 }) ∧
    ((∀ h : (s.getV x).toNat < 16, s.keys[(s.getV x).toNat] = false) →
      exec (.skp x) s = .next { s with pc := s.pc + 2#16 } ∧
      exec (.sknp x) s = .next { s with pc := s.pc + 4#16 })

/-! ### Immediate loads (42_immediate.md) -/

/-- R130, R131: load and add of an immediate, with no flag even when the sum exceeds 255. -/
def Obligations.ImmediatesAreLoadedAndAdded : Prop :=
  ∀ (x : Reg) (kk : Byte) (s : State),
    (∃ t, exec (.ldImm x kk) s = .next t ∧ t = { s with v := t.v, pc := s.pc + 2#16 } ∧
      t.getV x = kk ∧ ∀ j, j ≠ x → t.getV j = s.getV j) ∧
    ∃ t, exec (.addImm x kk) s = .next t ∧ t = { s with v := t.v, pc := s.pc + 2#16 } ∧
      (t.getV x).toNat = ((s.getV x).toNat + kk.toNat) % 256 ∧ ∀ j, j ≠ x → t.getV j = s.getV j

/-- R132: `V[x]` takes the random byte masked by `kk`, one draw. It holds for every byte: the one the
`Step` names, and the free value where it names none (the model's choice, log entry 3; decision D27). -/
def Obligations.RandomByteIsMasked : Prop :=
  ∀ (x : Reg) (kk : Byte) (s : State),
    ∃ t, exec (.rnd x kk) s = .next t ∧
      t = { s with
        v := t.v, pc := s.pc + 2#16
        env := { s.env with rnd := none, draws := s.env.draws + 1 } } ∧
      (∀ r, s.env.rnd = some r → t.getV x = r &&& kk) ∧
      (s.env.rnd = none → t.getV x = Config.freeByte s.env.draws &&& kk) ∧
      ∀ j, j ≠ x → t.getV j = s.getV j

/-! ### The ALU family (43_alu.md) -/

/-- R141 to R144: copy, OR, AND, XOR, which write no flag (decision D10). -/
def Obligations.CopyAndLogicWriteOnlyTheResult : Prop :=
  ∀ (x y : Reg) (s : State), ∀ p ∈ [(Instr.ldReg x y, s.getV y),
      (Instr.orReg x y, s.getV x ||| s.getV y), (Instr.andReg x y, s.getV x &&& s.getV y),
      (Instr.xorReg x y, s.getV x ^^^ s.getV y)],
    ∃ t, exec p.1 s = .next t ∧ t = { s with v := t.v, pc := s.pc + 2#16 } ∧
      t.getV x = p.2 ∧ ∀ j, j ≠ x → t.getV j = s.getV j

/-- R145, R146, R148: sum and differences modulo 256; `VF` is the carry, or strictly greater. For `x = F`
the flag is what `VF` ends with (R140, decision D12). -/
def Obligations.AddAndSubtractSetTheirFlags : Prop :=
  ∀ (x y : Reg) (s : State) (a b : Nat), a = (s.getV x).toNat → b = (s.getV y).toNat →
    ∀ p ∈ [(Instr.addReg x y, (a + b) % 256, decide (255 < a + b)),
      (Instr.subReg x y, (256 + a - b) % 256, decide (b < a)),
      (Instr.subnReg x y, (256 + b - a) % 256, decide (a < b))],
    ∃ t, exec p.1 s = .next t ∧ t = { s with v := t.v, pc := s.pc + 2#16 } ∧
      (x ≠ 0xF → (t.getV x).toNat = p.2.1) ∧ (t.getV 0xF).toNat = (if p.2.2 then 1 else 0) ∧
      ∀ j, j ≠ x → j ≠ 0xF → t.getV j = s.getV j

/-- R147, R149: `V[x]` shifted by one, `VF` the bit shifted out; `y` is ignored (decision D11). For
`x = F` the flag is what `VF` ends with (R140, decision D12). -/
def Obligations.ShiftsMoveTheBitOutIntoTheFlag : Prop :=
  ∀ (x y : Reg) (s : State) (a : Nat), a = (s.getV x).toNat →
    ∀ p ∈ [(Instr.shr x y, a / 2, a % 2), (Instr.shl x y, a * 2 % 256, a / 128)],
    ∃ t, exec p.1 s = .next t ∧ t = { s with v := t.v, pc := s.pc + 2#16 } ∧
      (x ≠ 0xF → (t.getV x).toNat = p.2.1) ∧ (t.getV 0xF).toNat = p.2.2 ∧
      ∀ j, j ≠ x → j ≠ 0xF → t.getV j = s.getV j

/-- R21: each of the six flag writers that runs to its end leaves 0 or 1 in `VF`, and an instruction that
is none of them changes `VF` only as its destination. -/
def Obligations.FlagWritersLeaveZeroOrOne : Prop :=
  ∀ (i : Instr) (s t : State), exec i s = .next t →
    (isFlagWriter i → (∀ c, ¬Raises i s c) → t.vf = 0 ∨ t.vf = 1) ∧
    (¬isFlagWriter i → t.vf ≠ s.vf →
      (∃ kk, i = .ldImm 0xF kk ∨ i = .addImm 0xF kk ∨ i = .rnd 0xF kk) ∨
      (∃ y, i = .ldReg 0xF y ∨ i = .orReg 0xF y ∨ i = .andReg 0xF y ∨ i = .xorReg 0xF y) ∨
      i = .ldVxDt 0xF ∨ i = .ldKey 0xF ∨ i = .loadRegs 0xF)

/-! ### Index register and memory (44_index_memory.md) -/

/-- R161, R163: `I` is loaded, and pointed at a glyph by the whole byte of `V[x]`; `pc` advances and nothing
else changes. -/
def Obligations.IndexIsLoadedAndPointed : Prop :=
  ∀ (nnn : Addr) (x : Reg) (s : State),
    (∃ t, exec (.ldI nnn) s = .next t ∧ t = { s with i := t.i, pc := s.pc + 2#16 } ∧
      t.i.toNat = nnn.toNat) ∧
    ∃ t, exec (.ldF x) s = .next t ∧ t = { s with i := t.i, pc := s.pc + 2#16 } ∧
      t.i.toNat = (s.getV x).toNat * 5

/-- R162: `V[x]` is added to `I`, which is not masked to 12 bits; no flag is written (decision D25), and the
sum is modulo 65536 (decision D7). -/
def Obligations.IndexIsAddedToUnmasked : Prop :=
  ∀ (x : Reg) (s : State),
    ∃ t, exec (.addI x) s = .next t ∧ t = { s with i := t.i, pc := s.pc + 2#16 } ∧
      t.i.toNat = (s.i.toNat + (s.getV x).toNat) % 65536

/-- R164: with `I + 2` in memory, the three digits of `V[x]` are stored from `I` on, `I` and the registers
are unchanged, and so is every byte outside the three. -/
def Obligations.DecimalDigitsAreStored : Prop :=
  ∀ (x : Reg) (s : State), s.i.toNat + 2 ≤ 0xFFF →
    ∃ t, exec (.ldB x) s = .next t ∧ t = { s with mem := t.mem, pc := s.pc + 2#16 } ∧
      (t.mem.read s.i.toNat).toNat = (s.getV x).toNat / 100 ∧
      (t.mem.read (s.i.toNat + 1)).toNat = (s.getV x).toNat / 10 % 10 ∧
      (t.mem.read (s.i.toNat + 2)).toNat = (s.getV x).toNat % 10 ∧
      ∀ a, a < s.i.toNat ∨ s.i.toNat + 3 ≤ a → t.mem.read a = s.mem.read a

/-- R165: with `I + x` in memory, `V[0..x]` are stored from `I` on; `I` and the registers are unchanged,
and so is every byte outside the `x + 1`. -/
def Obligations.RegistersAreStored : Prop :=
  ∀ (x : Reg) (s : State), s.i.toNat + x.toNat ≤ 0xFFF →
    ∃ t, exec (.storeRegs x) s = .next t ∧ t = { s with mem := t.mem, pc := s.pc + 2#16 } ∧
      (∀ j : Reg, j.toNat ≤ x.toNat → t.mem.read (s.i.toNat + j.toNat) = s.getV j) ∧
      ∀ a, a < s.i.toNat ∨ s.i.toNat + x.toNat < a → t.mem.read a = s.mem.read a

/-- R166: with `I + x` in memory, `V[0..x]` are loaded from `I` on and `I` advances by `x + 1`. -/
def Obligations.RegistersAreLoadedAndIndexAdvances : Prop :=
  ∀ (x : Reg) (s : State), s.i.toNat + x.toNat ≤ 0xFFF →
    ∃ t, exec (.loadRegs x) s = .next t ∧ t = { s with v := t.v, i := t.i, pc := s.pc + 2#16 } ∧
      t.i.toNat = s.i.toNat + x.toNat + 1 ∧
      (∀ j : Reg, j.toNat ≤ x.toNat → t.getV j = s.mem.read (s.i.toNat + j.toNat)) ∧
      ∀ j : Reg, x.toNat < j.toNat → t.getV j = s.getV j

/-- 95_test_vectors.md S4: a load after a store with the same `x` and `I` restores the registers stored,
whatever the registers became in between, and leaves `I` at `x + 1` further. -/
def Obligations.LoadAfterStoreRestoresTheRegisters : Prop :=
  ∀ (x : Reg) (s : State), s.i.toNat + x.toNat ≤ 0xFFF →
    ∃ t, exec (.storeRegs x) s = .next t ∧
      ∀ u : State, u.mem = t.mem → u.i = t.i →
        ∃ w, exec (.loadRegs x) u = .next w ∧ w.i.toNat = s.i.toNat + x.toNat + 1 ∧
          ∀ j : Reg, j.toNat ≤ x.toNat → w.getV j = s.getV j

/-- R62, R248: two registers stored over the next instruction are what the next fetch reads. -/
def Obligations.StoredCodeIsFetchedNext : Prop :=
  ∀ (x : Reg) (s : State), 1 ≤ x.toNat → s.i.toNat = s.pc.toNat + 2 →
    s.i.toNat + x.toNat ≤ 0xFFF →
    ∃ t, exec (.storeRegs x) s = .next t ∧ t.canFetch = true ∧
      t.fetchWord = wordOfBytes (s.getV 0) (s.getV 1)

/-! ### Display (45_display.md) -/

/-- R180: every pixel becomes 0 and nothing else changes but `pc`; `dirty` does not (decision D14). -/
def Obligations.ClearZeroesEveryPixel : Prop :=
  ∀ s : State, ∃ t, exec .cls s = .next t ∧ t = { s with fb := t.fb, pc := s.pc + 2#16 } ∧
    ∀ k, pixelAt t.fb k = false

/-- R181, R182: a draw inverts exactly the pixels under the 1 bits of the sprite, sets `VF` to whether one
of them was 1, sets `dirty`, and changes nothing else but `pc`. The bit order is decision D13, the
coordinate read from `VF` decision D12. With `n = 0` no pixel is the sprite's. -/
def Obligations.DrawInvertsTheSpritePixels : Prop :=
  ∀ (x y : Reg) (n : Nibble) (s : State), n = 0 ∨ s.i.toNat + n.toNat - 1 ≤ 0xFFF →
    ∃ t, exec (.drw x y n) s = .next t ∧
      t = { s with v := t.v, fb := t.fb, dirty := true, pc := s.pc + 2#16 } ∧
      (∀ k, k < 2048 →
        (SpritePixel s x y n k → pixelAt t.fb k = !pixelAt s.fb k) ∧
        (¬SpritePixel s x y n k → pixelAt t.fb k = pixelAt s.fb k)) ∧
      ((∃ k, SpritePixel s x y n k ∧ pixelAt s.fb k = true) → t.vf = 1) ∧
      ((∀ k, SpritePixel s x y n k → pixelAt s.fb k = false) → t.vf = 0) ∧
      ∀ j, j ≠ 0xF → t.getV j = s.getV j

/-- 95_test_vectors.md S5, R181: drawing the same sprite twice at the same place restores the picture, and
the second `VF` is 1 iff the first draw set a pixel. The coordinates must survive the first draw, which
they do unless `VF` is one of them. The bit order is decision D13. -/
def Obligations.DrawingTwiceRestoresThePicture : Prop :=
  ∀ (x y : Reg) (n : Nibble) (s : State), n = 0 ∨ s.i.toNat + n.toNat - 1 ≤ 0xFFF →
    ∃ t, exec (.drw x y n) s = .next t ∧
      (t.getV x = s.getV x → t.getV y = s.getV y →
        ∃ u, exec (.drw x y n) t = .next u ∧ u.fb = s.fb ∧ u.dirty = true ∧
          (u.vf = 1 ↔ ∃ k, SpritePixel s x y n k ∧ pixelAt s.fb k = false))

/-! ### Keys and timers (46_keys_timers.md) -/

/-- R192: with a key pressed, `V[x]` takes the least such index; with none, nothing changes at all, `pc`
included. The lowest-first scan is decision D15. -/
def Obligations.KeyWaitTakesTheLowestKeyOrWaits : Prop :=
  ∀ (x : Reg) (s : State),
    (∀ (k : Nat) (hk : k < 16), s.keys[k] = true → (∀ j (hj : j < k), s.keys[j] = false) →
      ∃ t, exec (.ldKey x) s = .next t ∧ t = { s with v := t.v, pc := s.pc + 2#16 } ∧
        (t.getV x).toNat = k ∧ ∀ j, j ≠ x → t.getV j = s.getV j) ∧
    ((∀ (k : Nat) (hk : k < 16), s.keys[k] = false) → exec (.ldKey x) s = .next s)

/-- R193, R194, R195: the three timer moves (decision D17). -/
def Obligations.TimersAreReadAndSet : Prop :=
  ∀ (x : Reg) (s : State),
    (∃ t, exec (.ldVxDt x) s = .next t ∧ t = { s with v := t.v, pc := s.pc + 2#16 } ∧
      t.getV x = s.dt ∧ ∀ j, j ≠ x → t.getV j = s.getV j) ∧
    exec (.ldDtVx x) s = .next { s with dt := s.getV x, pc := s.pc + 2#16 } ∧
    exec (.ldStVx x) s = .next { s with st := s.getV x, pc := s.pc + 2#16 }

/-! ### Faults (60_exceptions.md) -/

/-- R211, R217, R218: an instruction raises exactly the faults of the table, and then only the record is
set, with its own word and the `pc` of the step; otherwise it raises none (decisions D3, D4, D5, D8). -/
def Obligations.InstructionsRaiseExactlyTheseFaults : Prop :=
  ∀ (i : Instr) (s : State),
    (∀ c, Raises i s c → exec i s = .next { s with fault := some ⟨c, encode i, s.pc⟩ }) ∧
    ((∀ c, ¬Raises i s c) → ∃ t, exec i s = .next t ∧ t.fault = s.fault)

/-- R219, R220: once loaded and halted, only `Reset` changes the record, and no other event changes a
register, `pc`, `I`, the stack, the picture, memory or the gate (decisions D8, D20). -/
def Obligations.HaltLastsUntilReset : Prop :=
  ∀ (s t : State) f, s.loaded = true → s.fault = some f →
    (∀ es, s.env.script ≠ .reset :: es) → step s = .next t →
    t.fault = some f ∧ t.v = s.v ∧ t.pc = s.pc ∧ t.i = s.i ∧ t.stack = s.stack ∧ t.fb = s.fb ∧
      t.mem = s.mem ∧ t.loaded = true

/-- R222, D20: every step answers a next state, but for a `RomWrite` that the interface does not offer. -/
def Obligations.OnlyAnUnofferedRomWriteStops : Prop :=
  ∀ s : State, (∃ t, step s = .next t) ∨
    ∃ j b es, s.env.script = .romWrite j b :: es ∧
      ((s.loaded = true ∧ step s = .fault (.romWriteAfterLoad j)) ∨
        (s.loaded = false ∧ 3584 ≤ j ∧ step s = .refused (.romWriteOutsideProgramArea j)))

/-! ### Rules of the whole machine -/

/-- R35: the access table, its writes. What an instruction does not write is as it was: registers, `I`, the
stack, the timers, the keys, the picture, the gate, `dirty`, the host's side, and every byte of memory
outside the bytes stored from `I` on. -/
def Obligations.FrameFollowsTheAccessTable : Prop :=
  ∀ (i : Instr) (s t : State), exec i s = .next t →
    (∀ j, writesV i j = false → t.getV j = s.getV j) ∧
    (¬writesI i → t.i = s.i) ∧ (¬writesStack i → t.stack = s.stack) ∧
    ((∀ x, i ≠ .ldDtVx x) → t.dt = s.dt) ∧ ((∀ x, i ≠ .ldStVx x) → t.st = s.st) ∧
    t.keys = s.keys ∧ t.loaded = s.loaded ∧
    (i ≠ .cls → (∀ x y n, i ≠ .drw x y n) → t.fb = s.fb) ∧
    ((∀ x y n, i ≠ .drw x y n) → t.dirty = s.dirty) ∧
    ((∀ x kk, i ≠ .rnd x kk) → t.env = s.env) ∧
    ∀ a, a < s.i.toNat ∨ s.i.toNat + storedCount i ≤ a → t.mem.read a = s.mem.read a

/-- R22: "every non-control-transfer instruction advances it by exactly 2"; a skip by 2 or 4; `Fx0A` by 0 or
2. The width is decision D7. An instruction that faults does not advance. -/
def Obligations.PcAdvancesByTwo : Prop :=
  ∀ (i : Instr) (s t : State), exec i s = .next t →
    ((∃ c, Raises i s c) → t.pc = s.pc) ∧
    ((∀ c, ¬Raises i s c) → ¬isTransfer i →
      (¬isSkip i → (∀ x, i ≠ .ldKey x) → t.pc = s.pc + 2#16) ∧
      (isSkip i → t.pc = s.pc + 2#16 ∨ t.pc = s.pc + 4#16) ∧
      ((∃ x, i = .ldKey x) → t.pc = s.pc ∨ t.pc = s.pc + 2#16))

/-- R30: the gate is set by `LoadDone` only, cleared by `Reset` only, and no instruction reads or writes it;
while it is closed `Step` is a no-op, named by the host (its script moves on) or not. -/
def Obligations.LoadedGateIsOneWay : Prop :=
  (∀ (s t : State), step s = .next t →
    (s.loaded = false → t.loaded = true → ∃ es, s.env.script = .loadDone :: es) ∧
    (s.loaded = true → t.loaded = false → ∃ es, s.env.script = .reset :: es)) ∧
  (∀ s : State, s.loaded = false →
    (s.env.script = [] → step s = .next s) ∧
    ∀ r es, s.env.script = .step r :: es →
      step s = .next { s with env := { s.env with script := es, rnd := none } }) ∧
  ∀ (i : Instr) (s : State) (b : Bool),
    exec i { s with loaded := b } = onNext (fun t => { t with loaded := b }) (exec i s)

/-- R28: the key table changes at `SampleKeys` and `Reset` only, is overwritten wholesale there, and only
`Ex9E`, `ExA1` and `Fx0A` read it. -/
def Obligations.KeysChangeOnlyWhenSampled : Prop :=
  (∀ (s t : State), step s = .next t →
    (∀ keys es, s.env.script = .sampleKeys keys :: es → t.keys = keys) ∧
    ((∀ keys es, s.env.script ≠ .sampleKeys keys :: es) → (∀ es, s.env.script ≠ .reset :: es) →
      t.keys = s.keys)) ∧
  ∀ (i : Instr) (s : State) (keys : Vector Bool 16),
    (∀ x, i ≠ .skp x ∧ i ≠ .sknp x ∧ i ≠ .ldKey x) →
    exec i { s with keys := keys } = onNext (fun t => { t with keys := keys }) (exec i s)

/-- R26: the delay timer is written by `Fx15`, read by `Fx07`, and moved by no other instruction and no
other event than `TimerTick` (one less, never below zero) and `Reset`. -/
def Obligations.DelayTimerMovesOnlyByTickAndWrite : Prop :=
  (∀ (s t : State), step s = .next t → t.dt ≠ s.dt →
    (∃ es, s.env.script = .reset :: es) ∨
    ((∃ es, s.env.script = .timerTick :: es) ∧ t.dt.toNat + 1 = s.dt.toNat) ∨
    (StepIsNext s ∧ ∃ x, decodeWord s.fetchWord = .ok (.ldDtVx x) ∧ t.dt = s.getV x)) ∧
  ∀ (i : Instr) (s : State) (d : Byte), (∀ x, i ≠ .ldVxDt x) →
    ((∀ x, i ≠ .ldDtVx x) →
      exec i { s with dt := d } = onNext (fun t => { t with dt := d }) (exec i s)) ∧
    ∀ x, i = .ldDtVx x → exec i { s with dt := d } = exec i s

/-- R27: no instruction reads the sound timer: two runs of an instruction that differ in it differ in it
alone, and not at all if the instruction writes it. -/
def Obligations.SoundTimerIsNeverRead : Prop :=
  ∀ (i : Instr) (s : State) (d : Byte),
    ((∀ x, i ≠ .ldStVx x) →
      exec i { s with st := d } = onNext (fun t => { t with st := d }) (exec i s)) ∧
    ∀ x, i = .ldStVx x → exec i { s with st := d } = exec i s

/-- R182, R29: no instruction but `Dxyn` observes a pixel. -/
def Obligations.PixelsAreSeenOnlyByDraw : Prop :=
  ∀ (i : Instr) (s : State) (fb : Framebuffer), (∀ x y n, i ≠ .drw x y n) →
    (i ≠ .cls → exec i { s with fb := fb } = onNext (fun t => { t with fb := fb }) (exec i s)) ∧
    (i = .cls → exec i { s with fb := fb } = exec i s)

/-- R24: no instruction but `2nnn` and `00EE` reads or writes the stack. -/
def Obligations.StackIsSeenOnlyByCallAndReturn : Prop :=
  ∀ (i : Instr) (s : State) (stack : List Word), ¬writesStack i →
    exec i { s with stack := stack } = onNext (fun t => { t with stack := stack }) (exec i s)

/-- R228: the random byte, and all else of the host, is used only by `Cxkk`. -/
def Obligations.RandomByteIsSeenOnlyByRandomLoad : Prop :=
  ∀ (i : Instr) (s : State) (env : Environment), (∀ x kk, i ≠ .rnd x kk) →
    exec i { s with env := env } = onNext (fun t => { t with env := env }) (exec i s)

/-- R183: `dirty` is set by a `Dxyn` that runs and by nothing else, and cleared by `FrameAck` and `Reset` and
by nothing else (decision D14). -/
def Obligations.DirtyIsSetByDrawAndClearedByTheHost : Prop :=
  ∀ (s t : State), step s = .next t →
    (s.dirty = false → t.dirty = true →
      StepIsNext s ∧ ∃ x y n, decodeWord s.fetchWord = .ok (.drw x y n)) ∧
    (s.dirty = true → t.dirty = false →
      ∃ es, s.env.script = .frameAck :: es ∨ s.env.script = .reset :: es)

/-! ### Invariants -/

/-- R50, R60: memory stays in its one canonical form, with no byte listed that does not exist, in every
step from every state that has it (the range check of R57 is decision D5). -/
def Obligations.StepKeepsMemoryCanonical : Prop :=
  ∀ (s t : State), MemoryCanonical s → step s = .next t → MemoryCanonical t

/-- R24, R25: the stack stays within 16 entries (decision D3). -/
def Obligations.StepKeepsStackBounded : Prop :=
  ∀ (s t : State), StackBounded s → step s = .next t → StackBounded t

/-- R211, R218, R219: a latched fault record keeps telling, truly, which fault was raised, by which word and
where, and the state still shows why (decisions D3 to D6, D8). -/
def Obligations.StepKeepsFaultExplained : Prop :=
  ∀ (s t : State), FaultExplained s → step s = .next t → FaultExplained t

/-- R36: the reset state meets the three invariants. -/
def Obligations.ResetMeetsTheInvariants : Prop :=
  MemoryCanonical State.reset ∧ StackBounded State.reset ∧ FaultExplained State.reset
end

