-- ==== Sys2Proof/Laws/Encoding.lean ====
section
/-! SUPPORT. The fields of an assembled word (30_encoding.md R71, R72), a word assembled from its
fields, and the decoder taken apart once. -/

namespace Sys2Proof

/-! ### Fields of an assembled word -/

theorem bits_append_high {n m : Nat} (a : BitVec n) (b : BitVec m) :
    (a ++ b).extractLsb' m n = a := by
  ext i hi; simp [BitVec.getLsbD_append, BitVec.getLsbD_eq_getElem, hi]

theorem bits_append_low {n m : Nat} (a : BitVec n) (b : BitVec m) :
    (a ++ b).extractLsb' 0 m = b := by
  ext i hi; simp [BitVec.getLsbD_append, BitVec.getLsbD_eq_getElem, hi]

/-- Bits that lie wholly in the high part. -/
theorem bits_append_shift {n m : Nat} (a : BitVec n) (b : BitVec m) (k l : Nat) :
    (a ++ b).extractLsb' (m + k) l = a.extractLsb' k l := by
  ext i hi
  simp only [BitVec.getElem_extractLsb', BitVec.getLsbD_append]
  rw [if_neg (by omega)]
  congr 1; omega

theorem fieldH_wordNNN (h : Nibble) (a : Addr) : fieldH (wordNNN h a) = h :=
  bits_append_high h a

theorem fieldNNN_wordNNN (h : Nibble) (a : Addr) : fieldNNN (wordNNN h a) = a :=
  bits_append_low h a

theorem fieldH_wordXKK (h : Nibble) (x : Reg) (kk : Byte) : fieldH (wordXKK h x kk) = h :=
  (bits_append_shift (h ++ x) kk 4 4).trans (bits_append_high h x)

theorem fieldX_wordXKK (h : Nibble) (x : Reg) (kk : Byte) : fieldX (wordXKK h x kk) = x :=
  (bits_append_shift (h ++ x) kk 0 4).trans (bits_append_low h x)

theorem fieldKK_wordXKK (h : Nibble) (x : Reg) (kk : Byte) : fieldKK (wordXKK h x kk) = kk :=
  bits_append_low (h ++ x) kk

theorem fieldH_wordXYN (h : Nibble) (x y : Reg) (n : Nibble) :
    fieldH (wordXYN h x y n) = h :=
  ((bits_append_shift (h ++ x ++ y) n 8 4).trans (bits_append_shift (h ++ x) y 4 4)).trans
    (bits_append_high h x)

theorem fieldX_wordXYN (h : Nibble) (x y : Reg) (n : Nibble) :
    fieldX (wordXYN h x y n) = x :=
  ((bits_append_shift (h ++ x ++ y) n 4 4).trans (bits_append_shift (h ++ x) y 0 4)).trans
    (bits_append_low h x)

theorem fieldY_wordXYN (h : Nibble) (x y : Reg) (n : Nibble) :
    fieldY (wordXYN h x y n) = y :=
  (bits_append_shift (h ++ x ++ y) n 0 4).trans (bits_append_low (h ++ x) y)

theorem fieldN_wordXYN (h : Nibble) (x y : Reg) (n : Nibble) :
    fieldN (wordXYN h x y n) = n :=
  bits_append_low (h ++ x ++ y) n

/-! ### A word is assembled from its fields -/

/-- Two adjacent slices make one. -/
theorem slices_append (w : Word) (lo n m : Nat) :
    (w.extractLsb' (lo + m) n ++ w.extractLsb' lo m : BitVec (n + m)) = w.extractLsb' lo (n + m) := by
  ext i hi
  simp only [BitVec.getElem_append, BitVec.getElem_extractLsb']
  split
  · rfl
  · congr 1; omega

theorem slice_all (w : Word) : w.extractLsb' 0 16 = w := by ext i hi; simp

theorem wordNNN_fields (w : Word) : wordNNN (fieldH w) (fieldNNN w) = w :=
  (slices_append w 0 4 12).trans (slice_all w)

theorem wordXKK_fields (w : Word) : wordXKK (fieldH w) (fieldX w) (fieldKK w) = w := by
  unfold wordXKK fieldH fieldX fieldKK
  rw [slices_append w 8 4 4]
  exact (slices_append w 0 8 8).trans (slice_all w)

theorem wordXYN_fields (w : Word) : wordXYN (fieldH w) (fieldX w) (fieldY w) (fieldN w) = w := by
  unfold wordXYN fieldH fieldX fieldY fieldN
  rw [slices_append w 8 4 4, slices_append w 4 8 4]
  exact (slices_append w 0 12 4).trans (slice_all w)

/-! ### The decoder's rejections -/

/-- A rejection of `w` is `unsupported w`. -/
def RejectsByName (w : Word) (r : Except DecodeError Instr) : Prop :=
  ∀ e, r = .error e → e = .unsupported w

theorem RejectsByName.ok {w : Word} {i : Instr} : RejectsByName w (.ok i) :=
  fun _ h => nomatch h

theorem RejectsByName.error {w : Word} : RejectsByName w (.error (.unsupported w)) :=
  fun _ h => (Except.error.inj h).symm

theorem RejectsByName.ite {w : Word} {c : Prop} [Decidable c] {a b : Except DecodeError Instr}
    (ha : RejectsByName w a) (hb : RejectsByName w b) : RejectsByName w (if c then a else b) :=
  iteInduction (fun _ => ha) (fun _ => hb)

/-- The decoder rejects a word only by its own name (R79). -/
theorem decodeWord_rejectsByName (w : Word) : RejectsByName w (decodeWord w) := by
  unfold decodeWord decode0 decode8 decodeE decodeF
  repeat' first | exact .ok | exact .error | apply RejectsByName.ite

theorem decodeWord_error {w : Word} {e : DecodeError} (h : decodeWord w = .error e) :
    e = .unsupported w := decodeWord_rejectsByName w e h

end Sys2Proof
end

