-- ==== Sys2Proof/Laws/State.lean ====
section
/-! SUPPORT. One lemma per field per update of the state, so that no proof unfolds a record update, and
what reading a register gives after each update. -/

namespace Sys2Proof.Machine

variable (s : State)

/-! ### `State.setV` -/

@[simp] theorem State.setV_v (x : Reg) (b : Byte) : (s.setV x b).v = s.v.set x.toNat b x.isLt := rfl

@[simp] theorem State.setV_pc (x : Reg) (b : Byte) : (s.setV x b).pc = s.pc := rfl

@[simp] theorem State.setV_i (x : Reg) (b : Byte) : (s.setV x b).i = s.i := rfl

@[simp] theorem State.setV_stack (x : Reg) (b : Byte) : (s.setV x b).stack = s.stack := rfl

@[simp] theorem State.setV_dt (x : Reg) (b : Byte) : (s.setV x b).dt = s.dt := rfl

@[simp] theorem State.setV_st (x : Reg) (b : Byte) : (s.setV x b).st = s.st := rfl

@[simp] theorem State.setV_keys (x : Reg) (b : Byte) : (s.setV x b).keys = s.keys := rfl

@[simp] theorem State.setV_fb (x : Reg) (b : Byte) : (s.setV x b).fb = s.fb := rfl

@[simp] theorem State.setV_loaded (x : Reg) (b : Byte) : (s.setV x b).loaded = s.loaded := rfl

@[simp] theorem State.setV_dirty (x : Reg) (b : Byte) : (s.setV x b).dirty = s.dirty := rfl

@[simp] theorem State.setV_fault (x : Reg) (b : Byte) : (s.setV x b).fault = s.fault := rfl

@[simp] theorem State.setV_mem (x : Reg) (b : Byte) : (s.setV x b).mem = s.mem := rfl

@[simp] theorem State.setV_env (x : Reg) (b : Byte) : (s.setV x b).env = s.env := rfl

/-! ### `State.setPc` -/

@[simp] theorem State.setPc_v (w : Word) : (s.setPc w).v = s.v := rfl

@[simp] theorem State.setPc_pc (w : Word) : (s.setPc w).pc = w := rfl

@[simp] theorem State.setPc_i (w : Word) : (s.setPc w).i = s.i := rfl

@[simp] theorem State.setPc_stack (w : Word) : (s.setPc w).stack = s.stack := rfl

@[simp] theorem State.setPc_dt (w : Word) : (s.setPc w).dt = s.dt := rfl

@[simp] theorem State.setPc_st (w : Word) : (s.setPc w).st = s.st := rfl

@[simp] theorem State.setPc_keys (w : Word) : (s.setPc w).keys = s.keys := rfl

@[simp] theorem State.setPc_fb (w : Word) : (s.setPc w).fb = s.fb := rfl

@[simp] theorem State.setPc_loaded (w : Word) : (s.setPc w).loaded = s.loaded := rfl

@[simp] theorem State.setPc_dirty (w : Word) : (s.setPc w).dirty = s.dirty := rfl

@[simp] theorem State.setPc_fault (w : Word) : (s.setPc w).fault = s.fault := rfl

@[simp] theorem State.setPc_mem (w : Word) : (s.setPc w).mem = s.mem := rfl

@[simp] theorem State.setPc_env (w : Word) : (s.setPc w).env = s.env := rfl

@[simp] theorem State.getV_setPc (w : Word) (reg : Reg) : (s.setPc w).getV reg = s.getV reg := rfl

/-! ### `State.setI` -/

@[simp] theorem State.setI_v (w : Word) : (s.setI w).v = s.v := rfl

@[simp] theorem State.setI_pc (w : Word) : (s.setI w).pc = s.pc := rfl

@[simp] theorem State.setI_i (w : Word) : (s.setI w).i = w := rfl

@[simp] theorem State.setI_stack (w : Word) : (s.setI w).stack = s.stack := rfl

@[simp] theorem State.setI_dt (w : Word) : (s.setI w).dt = s.dt := rfl

@[simp] theorem State.setI_st (w : Word) : (s.setI w).st = s.st := rfl

@[simp] theorem State.setI_keys (w : Word) : (s.setI w).keys = s.keys := rfl

@[simp] theorem State.setI_fb (w : Word) : (s.setI w).fb = s.fb := rfl

@[simp] theorem State.setI_loaded (w : Word) : (s.setI w).loaded = s.loaded := rfl

@[simp] theorem State.setI_dirty (w : Word) : (s.setI w).dirty = s.dirty := rfl

@[simp] theorem State.setI_fault (w : Word) : (s.setI w).fault = s.fault := rfl

@[simp] theorem State.setI_mem (w : Word) : (s.setI w).mem = s.mem := rfl

@[simp] theorem State.setI_env (w : Word) : (s.setI w).env = s.env := rfl

@[simp] theorem State.getV_setI (w : Word) (reg : Reg) : (s.setI w).getV reg = s.getV reg := rfl

/-! ### `State.advance` -/

@[simp] theorem State.advance_v : s.advance.v = s.v := rfl

@[simp] theorem State.advance_pc : s.advance.pc = s.next := rfl

@[simp] theorem State.advance_i : s.advance.i = s.i := rfl

@[simp] theorem State.advance_stack : s.advance.stack = s.stack := rfl

@[simp] theorem State.advance_dt : s.advance.dt = s.dt := rfl

@[simp] theorem State.advance_st : s.advance.st = s.st := rfl

@[simp] theorem State.advance_keys : s.advance.keys = s.keys := rfl

@[simp] theorem State.advance_fb : s.advance.fb = s.fb := rfl

@[simp] theorem State.advance_loaded : s.advance.loaded = s.loaded := rfl

@[simp] theorem State.advance_dirty : s.advance.dirty = s.dirty := rfl

@[simp] theorem State.advance_fault : s.advance.fault = s.fault := rfl

@[simp] theorem State.advance_mem : s.advance.mem = s.mem := rfl

@[simp] theorem State.advance_env : s.advance.env = s.env := rfl

@[simp] theorem State.getV_advance (reg : Reg) : s.advance.getV reg = s.getV reg := rfl

/-! ### `State.skipIf` -/

@[simp] theorem State.skipIf_v (c : Bool) : (s.skipIf c).v = s.v := rfl

@[simp] theorem State.skipIf_pc (c : Bool) : (s.skipIf c).pc = if c then s.skip else s.next := rfl

@[simp] theorem State.skipIf_i (c : Bool) : (s.skipIf c).i = s.i := rfl

@[simp] theorem State.skipIf_stack (c : Bool) : (s.skipIf c).stack = s.stack := rfl

@[simp] theorem State.skipIf_dt (c : Bool) : (s.skipIf c).dt = s.dt := rfl

@[simp] theorem State.skipIf_st (c : Bool) : (s.skipIf c).st = s.st := rfl

@[simp] theorem State.skipIf_keys (c : Bool) : (s.skipIf c).keys = s.keys := rfl

@[simp] theorem State.skipIf_fb (c : Bool) : (s.skipIf c).fb = s.fb := rfl

@[simp] theorem State.skipIf_loaded (c : Bool) : (s.skipIf c).loaded = s.loaded := rfl

@[simp] theorem State.skipIf_dirty (c : Bool) : (s.skipIf c).dirty = s.dirty := rfl

@[simp] theorem State.skipIf_fault (c : Bool) : (s.skipIf c).fault = s.fault := rfl

@[simp] theorem State.skipIf_mem (c : Bool) : (s.skipIf c).mem = s.mem := rfl

@[simp] theorem State.skipIf_env (c : Bool) : (s.skipIf c).env = s.env := rfl

@[simp] theorem State.getV_skipIf (c : Bool) (reg : Reg) : (s.skipIf c).getV reg = s.getV reg := rfl

/-! ### `State.raise` -/

@[simp] theorem State.raise_v (c : Cause) (w : Word) : (s.raise c w).v = s.v := rfl

@[simp] theorem State.raise_pc (c : Cause) (w : Word) : (s.raise c w).pc = s.pc := rfl

@[simp] theorem State.raise_i (c : Cause) (w : Word) : (s.raise c w).i = s.i := rfl

@[simp] theorem State.raise_stack (c : Cause) (w : Word) : (s.raise c w).stack = s.stack := rfl

@[simp] theorem State.raise_dt (c : Cause) (w : Word) : (s.raise c w).dt = s.dt := rfl

@[simp] theorem State.raise_st (c : Cause) (w : Word) : (s.raise c w).st = s.st := rfl

@[simp] theorem State.raise_keys (c : Cause) (w : Word) : (s.raise c w).keys = s.keys := rfl

@[simp] theorem State.raise_fb (c : Cause) (w : Word) : (s.raise c w).fb = s.fb := rfl

@[simp] theorem State.raise_loaded (c : Cause) (w : Word) : (s.raise c w).loaded = s.loaded := rfl

@[simp] theorem State.raise_dirty (c : Cause) (w : Word) : (s.raise c w).dirty = s.dirty := rfl

@[simp] theorem State.raise_fault (c : Cause) (w : Word) : (s.raise c w).fault = some { cause := c, word := w, pc := s.pc } := rfl

@[simp] theorem State.raise_mem (c : Cause) (w : Word) : (s.raise c w).mem = s.mem := rfl

@[simp] theorem State.raise_env (c : Cause) (w : Word) : (s.raise c w).env = s.env := rfl

@[simp] theorem State.getV_raise (c : Cause) (w : Word) (reg : Reg) : (s.raise c w).getV reg = s.getV reg := rfl

/-! ### `State.drawn` -/

@[simp] theorem State.drawn_v : s.drawn.v = s.v := rfl

@[simp] theorem State.drawn_pc : s.drawn.pc = s.pc := rfl

@[simp] theorem State.drawn_i : s.drawn.i = s.i := rfl

@[simp] theorem State.drawn_stack : s.drawn.stack = s.stack := rfl

@[simp] theorem State.drawn_dt : s.drawn.dt = s.dt := rfl

@[simp] theorem State.drawn_st : s.drawn.st = s.st := rfl

@[simp] theorem State.drawn_keys : s.drawn.keys = s.keys := rfl

@[simp] theorem State.drawn_fb : s.drawn.fb = s.fb := rfl

@[simp] theorem State.drawn_loaded : s.drawn.loaded = s.loaded := rfl

@[simp] theorem State.drawn_dirty : s.drawn.dirty = s.dirty := rfl

@[simp] theorem State.drawn_fault : s.drawn.fault = s.fault := rfl

@[simp] theorem State.drawn_mem : s.drawn.mem = s.mem := rfl

@[simp] theorem State.drawn_env : s.drawn.env = { s.env with rnd := none, draws := s.env.draws + 1 } := rfl

@[simp] theorem State.getV_drawn (reg : Reg) : s.drawn.getV reg = s.getV reg := rfl

/-! ### `State.offerRandom` -/

@[simp] theorem State.offerRandom_v (r : Byte) : (s.offerRandom r).v = s.v := rfl

@[simp] theorem State.offerRandom_pc (r : Byte) : (s.offerRandom r).pc = s.pc := rfl

@[simp] theorem State.offerRandom_i (r : Byte) : (s.offerRandom r).i = s.i := rfl

@[simp] theorem State.offerRandom_stack (r : Byte) : (s.offerRandom r).stack = s.stack := rfl

@[simp] theorem State.offerRandom_dt (r : Byte) : (s.offerRandom r).dt = s.dt := rfl

@[simp] theorem State.offerRandom_st (r : Byte) : (s.offerRandom r).st = s.st := rfl

@[simp] theorem State.offerRandom_keys (r : Byte) : (s.offerRandom r).keys = s.keys := rfl

@[simp] theorem State.offerRandom_fb (r : Byte) : (s.offerRandom r).fb = s.fb := rfl

@[simp] theorem State.offerRandom_loaded (r : Byte) : (s.offerRandom r).loaded = s.loaded := rfl

@[simp] theorem State.offerRandom_dirty (r : Byte) : (s.offerRandom r).dirty = s.dirty := rfl

@[simp] theorem State.offerRandom_fault (r : Byte) : (s.offerRandom r).fault = s.fault := rfl

@[simp] theorem State.offerRandom_mem (r : Byte) : (s.offerRandom r).mem = s.mem := rfl

@[simp] theorem State.offerRandom_env (r : Byte) : (s.offerRandom r).env = { s.env with rnd := some r } := rfl

@[simp] theorem State.getV_offerRandom (r : Byte) (reg : Reg) : (s.offerRandom r).getV reg = s.getV reg := rfl

/-! ### `State.dropRandom` -/

@[simp] theorem State.dropRandom_v : s.dropRandom.v = s.v := rfl

@[simp] theorem State.dropRandom_pc : s.dropRandom.pc = s.pc := rfl

@[simp] theorem State.dropRandom_i : s.dropRandom.i = s.i := rfl

@[simp] theorem State.dropRandom_stack : s.dropRandom.stack = s.stack := rfl

@[simp] theorem State.dropRandom_dt : s.dropRandom.dt = s.dt := rfl

@[simp] theorem State.dropRandom_st : s.dropRandom.st = s.st := rfl

@[simp] theorem State.dropRandom_keys : s.dropRandom.keys = s.keys := rfl

@[simp] theorem State.dropRandom_fb : s.dropRandom.fb = s.fb := rfl

@[simp] theorem State.dropRandom_loaded : s.dropRandom.loaded = s.loaded := rfl

@[simp] theorem State.dropRandom_dirty : s.dropRandom.dirty = s.dirty := rfl

@[simp] theorem State.dropRandom_fault : s.dropRandom.fault = s.fault := rfl

@[simp] theorem State.dropRandom_mem : s.dropRandom.mem = s.mem := rfl

@[simp] theorem State.dropRandom_env : s.dropRandom.env = { s.env with rnd := none } := rfl

@[simp] theorem State.getV_dropRandom (reg : Reg) : s.dropRandom.getV reg = s.getV reg := rfl

/-! ### `State.takeEvent` -/

@[simp] theorem State.takeEvent_v (es : List Event) : (s.takeEvent es).v = s.v := rfl

@[simp] theorem State.takeEvent_pc (es : List Event) : (s.takeEvent es).pc = s.pc := rfl

@[simp] theorem State.takeEvent_i (es : List Event) : (s.takeEvent es).i = s.i := rfl

@[simp] theorem State.takeEvent_stack (es : List Event) : (s.takeEvent es).stack = s.stack := rfl

@[simp] theorem State.takeEvent_dt (es : List Event) : (s.takeEvent es).dt = s.dt := rfl

@[simp] theorem State.takeEvent_st (es : List Event) : (s.takeEvent es).st = s.st := rfl

@[simp] theorem State.takeEvent_keys (es : List Event) : (s.takeEvent es).keys = s.keys := rfl

@[simp] theorem State.takeEvent_fb (es : List Event) : (s.takeEvent es).fb = s.fb := rfl

@[simp] theorem State.takeEvent_loaded (es : List Event) : (s.takeEvent es).loaded = s.loaded := rfl

@[simp] theorem State.takeEvent_dirty (es : List Event) : (s.takeEvent es).dirty = s.dirty := rfl

@[simp] theorem State.takeEvent_fault (es : List Event) : (s.takeEvent es).fault = s.fault := rfl

@[simp] theorem State.takeEvent_mem (es : List Event) : (s.takeEvent es).mem = s.mem := rfl

@[simp] theorem State.takeEvent_env (es : List Event) : (s.takeEvent es).env = { s.env with script := es } := rfl

@[simp] theorem State.getV_takeEvent (es : List Event) (reg : Reg) : (s.takeEvent es).getV reg = s.getV reg := rfl

/-! ### `State.storeData` -/

@[simp] theorem State.storeData_v (bs : List Byte) : (s.storeData bs).v = s.v := rfl

@[simp] theorem State.storeData_pc (bs : List Byte) : (s.storeData bs).pc = s.pc := rfl

@[simp] theorem State.storeData_i (bs : List Byte) : (s.storeData bs).i = s.i := rfl

@[simp] theorem State.storeData_stack (bs : List Byte) : (s.storeData bs).stack = s.stack := rfl

@[simp] theorem State.storeData_dt (bs : List Byte) : (s.storeData bs).dt = s.dt := rfl

@[simp] theorem State.storeData_st (bs : List Byte) : (s.storeData bs).st = s.st := rfl

@[simp] theorem State.storeData_keys (bs : List Byte) : (s.storeData bs).keys = s.keys := rfl

@[simp] theorem State.storeData_fb (bs : List Byte) : (s.storeData bs).fb = s.fb := rfl

@[simp] theorem State.storeData_loaded (bs : List Byte) : (s.storeData bs).loaded = s.loaded := rfl

@[simp] theorem State.storeData_dirty (bs : List Byte) : (s.storeData bs).dirty = s.dirty := rfl

@[simp] theorem State.storeData_fault (bs : List Byte) : (s.storeData bs).fault = s.fault := rfl

@[simp] theorem State.storeData_mem (bs : List Byte) : (s.storeData bs).mem = s.mem.writeFrom s.i.toNat bs := rfl

@[simp] theorem State.storeData_env (bs : List Byte) : (s.storeData bs).env = s.env := rfl

@[simp] theorem State.getV_storeData (bs : List Byte) (reg : Reg) : (s.storeData bs).getV reg = s.getV reg := rfl

/-! ### `State.loadRegsUpTo` -/

@[simp] theorem State.loadRegsUpTo_pc (x : Reg) : (s.loadRegsUpTo x).pc = s.pc := rfl

@[simp] theorem State.loadRegsUpTo_i (x : Reg) : (s.loadRegsUpTo x).i = s.i := rfl

@[simp] theorem State.loadRegsUpTo_stack (x : Reg) : (s.loadRegsUpTo x).stack = s.stack := rfl

@[simp] theorem State.loadRegsUpTo_dt (x : Reg) : (s.loadRegsUpTo x).dt = s.dt := rfl

@[simp] theorem State.loadRegsUpTo_st (x : Reg) : (s.loadRegsUpTo x).st = s.st := rfl

@[simp] theorem State.loadRegsUpTo_keys (x : Reg) : (s.loadRegsUpTo x).keys = s.keys := rfl

@[simp] theorem State.loadRegsUpTo_fb (x : Reg) : (s.loadRegsUpTo x).fb = s.fb := rfl

@[simp] theorem State.loadRegsUpTo_loaded (x : Reg) : (s.loadRegsUpTo x).loaded = s.loaded := rfl

@[simp] theorem State.loadRegsUpTo_dirty (x : Reg) : (s.loadRegsUpTo x).dirty = s.dirty := rfl

@[simp] theorem State.loadRegsUpTo_fault (x : Reg) : (s.loadRegsUpTo x).fault = s.fault := rfl

@[simp] theorem State.loadRegsUpTo_mem (x : Reg) : (s.loadRegsUpTo x).mem = s.mem := rfl

@[simp] theorem State.loadRegsUpTo_env (x : Reg) : (s.loadRegsUpTo x).env = s.env := rfl

/-! ### `State.setResultAndFlag` -/

@[simp] theorem State.setResultAndFlag_v (x : Reg) (r f : Byte) : (s.setResultAndFlag x r f).v = (s.v.set x.toNat r x.isLt).set 15 f := rfl

@[simp] theorem State.setResultAndFlag_pc (x : Reg) (r f : Byte) : (s.setResultAndFlag x r f).pc = s.pc := rfl

@[simp] theorem State.setResultAndFlag_i (x : Reg) (r f : Byte) : (s.setResultAndFlag x r f).i = s.i := rfl

@[simp] theorem State.setResultAndFlag_stack (x : Reg) (r f : Byte) : (s.setResultAndFlag x r f).stack = s.stack := rfl

@[simp] theorem State.setResultAndFlag_dt (x : Reg) (r f : Byte) : (s.setResultAndFlag x r f).dt = s.dt := rfl

@[simp] theorem State.setResultAndFlag_st (x : Reg) (r f : Byte) : (s.setResultAndFlag x r f).st = s.st := rfl

@[simp] theorem State.setResultAndFlag_keys (x : Reg) (r f : Byte) : (s.setResultAndFlag x r f).keys = s.keys := rfl

@[simp] theorem State.setResultAndFlag_fb (x : Reg) (r f : Byte) : (s.setResultAndFlag x r f).fb = s.fb := rfl

@[simp] theorem State.setResultAndFlag_loaded (x : Reg) (r f : Byte) : (s.setResultAndFlag x r f).loaded = s.loaded := rfl

@[simp] theorem State.setResultAndFlag_dirty (x : Reg) (r f : Byte) : (s.setResultAndFlag x r f).dirty = s.dirty := rfl

@[simp] theorem State.setResultAndFlag_fault (x : Reg) (r f : Byte) : (s.setResultAndFlag x r f).fault = s.fault := rfl

@[simp] theorem State.setResultAndFlag_mem (x : Reg) (r f : Byte) : (s.setResultAndFlag x r f).mem = s.mem := rfl

@[simp] theorem State.setResultAndFlag_env (x : Reg) (r f : Byte) : (s.setResultAndFlag x r f).env = s.env := rfl

/-! ### `State.setLogicResult` -/

@[simp] theorem State.setLogicResult_v (x : Reg) (r : Byte) : (s.setLogicResult x r).v = s.v.set x.toNat r x.isLt := rfl

@[simp] theorem State.setLogicResult_pc (x : Reg) (r : Byte) : (s.setLogicResult x r).pc = s.pc := rfl

@[simp] theorem State.setLogicResult_i (x : Reg) (r : Byte) : (s.setLogicResult x r).i = s.i := rfl

@[simp] theorem State.setLogicResult_stack (x : Reg) (r : Byte) : (s.setLogicResult x r).stack = s.stack := rfl

@[simp] theorem State.setLogicResult_dt (x : Reg) (r : Byte) : (s.setLogicResult x r).dt = s.dt := rfl

@[simp] theorem State.setLogicResult_st (x : Reg) (r : Byte) : (s.setLogicResult x r).st = s.st := rfl

@[simp] theorem State.setLogicResult_keys (x : Reg) (r : Byte) : (s.setLogicResult x r).keys = s.keys := rfl

@[simp] theorem State.setLogicResult_fb (x : Reg) (r : Byte) : (s.setLogicResult x r).fb = s.fb := rfl

@[simp] theorem State.setLogicResult_loaded (x : Reg) (r : Byte) : (s.setLogicResult x r).loaded = s.loaded := rfl

@[simp] theorem State.setLogicResult_dirty (x : Reg) (r : Byte) : (s.setLogicResult x r).dirty = s.dirty := rfl

@[simp] theorem State.setLogicResult_fault (x : Reg) (r : Byte) : (s.setLogicResult x r).fault = s.fault := rfl

@[simp] theorem State.setLogicResult_mem (x : Reg) (r : Byte) : (s.setLogicResult x r).mem = s.mem := rfl

@[simp] theorem State.setLogicResult_env (x : Reg) (r : Byte) : (s.setLogicResult x r).env = s.env := rfl

/-! ### `State.drawSprite` -/

@[simp] theorem State.drawSprite_pc (x y : Reg) (n : Nibble) : (s.drawSprite x y n).pc = s.pc := rfl

@[simp] theorem State.drawSprite_i (x y : Reg) (n : Nibble) : (s.drawSprite x y n).i = s.i := rfl

@[simp] theorem State.drawSprite_stack (x y : Reg) (n : Nibble) : (s.drawSprite x y n).stack = s.stack := rfl

@[simp] theorem State.drawSprite_dt (x y : Reg) (n : Nibble) : (s.drawSprite x y n).dt = s.dt := rfl

@[simp] theorem State.drawSprite_st (x y : Reg) (n : Nibble) : (s.drawSprite x y n).st = s.st := rfl

@[simp] theorem State.drawSprite_keys (x y : Reg) (n : Nibble) : (s.drawSprite x y n).keys = s.keys := rfl

@[simp] theorem State.drawSprite_loaded (x y : Reg) (n : Nibble) : (s.drawSprite x y n).loaded = s.loaded := rfl

@[simp] theorem State.drawSprite_dirty (x y : Reg) (n : Nibble) : (s.drawSprite x y n).dirty = true := rfl

@[simp] theorem State.drawSprite_fault (x y : Reg) (n : Nibble) : (s.drawSprite x y n).fault = s.fault := rfl

@[simp] theorem State.drawSprite_mem (x y : Reg) (n : Nibble) : (s.drawSprite x y n).mem = s.mem := rfl

@[simp] theorem State.drawSprite_env (x y : Reg) (n : Nibble) : (s.drawSprite x y n).env = s.env := rfl

/-! ### `State.romWrite` -/

@[simp] theorem State.romWrite_v (j : Nat) (b : Byte) : (s.romWrite j b).v = s.v := rfl

@[simp] theorem State.romWrite_pc (j : Nat) (b : Byte) : (s.romWrite j b).pc = s.pc := rfl

@[simp] theorem State.romWrite_i (j : Nat) (b : Byte) : (s.romWrite j b).i = s.i := rfl

@[simp] theorem State.romWrite_stack (j : Nat) (b : Byte) : (s.romWrite j b).stack = s.stack := rfl

@[simp] theorem State.romWrite_dt (j : Nat) (b : Byte) : (s.romWrite j b).dt = s.dt := rfl

@[simp] theorem State.romWrite_st (j : Nat) (b : Byte) : (s.romWrite j b).st = s.st := rfl

@[simp] theorem State.romWrite_keys (j : Nat) (b : Byte) : (s.romWrite j b).keys = s.keys := rfl

@[simp] theorem State.romWrite_fb (j : Nat) (b : Byte) : (s.romWrite j b).fb = s.fb := rfl

@[simp] theorem State.romWrite_loaded (j : Nat) (b : Byte) : (s.romWrite j b).loaded = s.loaded := rfl

@[simp] theorem State.romWrite_dirty (j : Nat) (b : Byte) : (s.romWrite j b).dirty = s.dirty := rfl

@[simp] theorem State.romWrite_fault (j : Nat) (b : Byte) : (s.romWrite j b).fault = s.fault := rfl

@[simp] theorem State.romWrite_mem (j : Nat) (b : Byte) : (s.romWrite j b).mem = s.mem.write (0x200 + j) b := rfl

@[simp] theorem State.romWrite_env (j : Nat) (b : Byte) : (s.romWrite j b).env = s.env := rfl

@[simp] theorem State.getV_romWrite (j : Nat) (b : Byte) (reg : Reg) : (s.romWrite j b).getV reg = s.getV reg := rfl

/-! ### `State.timerTick` -/

@[simp] theorem State.timerTick_v : s.timerTick.v = s.v := rfl

@[simp] theorem State.timerTick_pc : s.timerTick.pc = s.pc := rfl

@[simp] theorem State.timerTick_i : s.timerTick.i = s.i := rfl

@[simp] theorem State.timerTick_stack : s.timerTick.stack = s.stack := rfl

@[simp] theorem State.timerTick_dt : s.timerTick.dt = countDown s.dt := rfl

@[simp] theorem State.timerTick_st : s.timerTick.st = countDown s.st := rfl

@[simp] theorem State.timerTick_keys : s.timerTick.keys = s.keys := rfl

@[simp] theorem State.timerTick_fb : s.timerTick.fb = s.fb := rfl

@[simp] theorem State.timerTick_loaded : s.timerTick.loaded = s.loaded := rfl

@[simp] theorem State.timerTick_dirty : s.timerTick.dirty = s.dirty := rfl

@[simp] theorem State.timerTick_fault : s.timerTick.fault = s.fault := rfl

@[simp] theorem State.timerTick_mem : s.timerTick.mem = s.mem := rfl

@[simp] theorem State.getV_timerTick (reg : Reg) : s.timerTick.getV reg = s.getV reg := rfl

/-! ### Reading `V` after a write -/

@[simp] theorem State.getV_setV (x j : Reg) (b : Byte) :
    (s.setV x b).getV j = if j = x then b else s.getV j := by
  by_cases h : j = x
  · subst h; simp [State.getV, State.setV]
  · have : x.toNat ≠ j.toNat := fun e => h (BitVec.eq_of_toNat_eq e.symm)
    simp [State.getV, State.setV, this, h]

@[simp] theorem State.getV_setResultAndFlag (x j : Reg) (r f : Byte) :
    (s.setResultAndFlag x r f).getV j = if j = 0xF#4 then f else if j = x then r else s.getV j := by
  simp [State.setResultAndFlag]

@[simp] theorem State.getV_setLogicResult (x j : Reg) (r : Byte) :
    (s.setLogicResult x r).getV j = if j = x then r else s.getV j :=
  State.getV_setV s x j r

@[simp] theorem State.getV_loadRegsUpTo (x j : Reg) :
    (s.loadRegsUpTo x).getV j =
      if j.toNat ≤ x.toNat then s.mem.read (s.i.toNat + j.toNat) else s.getV j := by
  simp [State.getV, State.loadRegsUpTo, State.dataAddress]

@[simp] theorem State.getV_drawSprite (x y j : Reg) (n : Nibble) :
    (s.drawSprite x y n).getV j =
      if j = 0xF#4 then
        flagByte (blit (spritePixels s.mem s.i.toNat (s.getV x) (s.getV y) n.toNat) (s.fb, false)).2
      else s.getV j :=
  State.getV_setV s 0xF#4 j _

@[simp] theorem State.drawSprite_fb (x y : Reg) (n : Nibble) :
    (s.drawSprite x y n).fb =
      (blit (spritePixels s.mem s.i.toNat (s.getV x) (s.getV y) n.toNat) (s.fb, false)).1 := rfl

@[simp] theorem State.regsUpTo_length (x : Reg) : (s.regsUpTo x).length = x.toNat + 1 := by
  simp [State.regsUpTo]

/-- Two states with the same registers read alike, and conversely. -/
theorem State.v_eq_iff (s t : State) : s.v = t.v ↔ ∀ j, s.getV j = t.getV j := by
  constructor
  · intro h j; simp [State.getV, h]
  · intro h
    refine Vector.ext fun k hk => ?_
    have hk' := h (BitVec.ofNat 4 k)
    have e : (BitVec.ofNat 4 k).toNat = k := by simp [Nat.mod_eq_of_lt hk]
    simpa [State.getV, e] using hk'

end Sys2Proof.Machine
end

