-- ==== Sys2Proof/Laws/Memory.lean ====
section
/-! SUPPORT. The laws of memory: a read after a write, that every operation keeps the canonical form,
and that memories in canonical form are equal when they read alike (20_memory.md R60, R63). -/

namespace Sys2Proof.Machine

/-! ### Reading after writing: for every list, canonical or not -/

@[simp] theorem Memory.read_nil (a : Nat) : Memory.read [] a = Memory.initial a := rfl

theorem Memory.read_cons (k a : Nat) (b : Byte) (m : Memory) :
    Memory.read ((k, b) :: m) a = if k = a then b else Memory.read m a := rfl

theorem Memory.read_erase (m : Memory) (a c : Nat) :
    Memory.read (m.erase a) c = if c = a then Memory.initial c else m.read c := by
  induction m with
  | nil => simp [Memory.erase]
  | cons e m ih =>
    obtain ⟨k, d⟩ := e
    by_cases hk : k = a
    · subst hk
      have : Memory.erase ((k, d) :: m) k = Memory.erase m k := by simp [Memory.erase]
      rw [this, ih, Memory.read_cons]
      split <;> simp_all [eq_comm]
    · have : Memory.erase ((k, d) :: m) a = (k, d) :: Memory.erase m a := by simp [Memory.erase, hk]
      rw [this, Memory.read_cons, ih, Memory.read_cons]
      grind

theorem Memory.read_insert (m : Memory) (a c : Nat) (b : Byte) (h : m.read a = Memory.initial a)
    (hm : ∀ e ∈ m, e.1 ≠ a) :
    Memory.read (m.insert a b) c = if c = a then b else m.read c := by
  induction m with
  | nil => simp only [Memory.insert, Memory.read_cons]; grind
  | cons e m ih =>
    obtain ⟨k, d⟩ := e
    have hk : k ≠ a := hm (k, d) (by simp)
    unfold Memory.insert
    split
    · simp only [Memory.read_cons]; grind
    · rw [Memory.read_cons, ih (by simpa [Memory.read_cons, hk] using h)
        (fun e he => hm e (by simp [he])), Memory.read_cons]
      grind

/-- A byte written is the byte read, and every other byte is as before (R60 (c), R63). -/
@[simp] theorem Memory.read_write (m : Memory) (a c : Nat) (b : Byte) :
    (m.write a b).read c = if c = a then b else m.read c := by
  unfold Memory.write
  split
  · rename_i h; rw [Memory.read_erase]; split <;> simp_all
  · rw [Memory.read_insert _ _ _ _ (by simp [Memory.read_erase])
      (by intro e he; simpa using (List.mem_filter.mp he).2), Memory.read_erase]
    split <;> rfl

theorem Memory.read_write_same (m : Memory) (a : Nat) (b : Byte) : (m.write a b).read a = b := by simp

theorem Memory.read_write_ne (m : Memory) {a c : Nat} (b : Byte) (h : c ≠ a) :
    (m.write a b).read c = m.read c := by simp [h]

/-- What a range of stores leaves: the byte stored, inside it, and the byte as before, outside (R55). -/
theorem Memory.read_writeFrom (m : Memory) (a : Nat) (bs : List Byte) (c : Nat) :
    (m.writeFrom a bs).read c =
      if h : a ≤ c ∧ c < a + bs.length then bs[c - a]'(by omega) else m.read c := by
  induction bs generalizing m a with
  | nil => simp only [Memory.writeFrom, List.length_nil]; grind
  | cons b bs ih =>
    have hl : (b :: bs).length = bs.length + 1 := rfl
    rw [Memory.writeFrom, ih]
    by_cases h : a + 1 ≤ c ∧ c < a + 1 + bs.length
    · have e : c - a = (c - (a + 1)) + 1 := by omega
      rw [dif_pos h, dif_pos (by omega)]
      simp [e]
    · rw [dif_neg h, Memory.read_write]
      by_cases hc : c = a
      · subst hc; simp
      · rw [if_neg hc, dif_neg (by omega)]

theorem Memory.read_writeFrom_outside (m : Memory) (a : Nat) (bs : List Byte) (c : Nat)
    (h : c < a ∨ a + bs.length ≤ c) : (m.writeFrom a bs).read c = m.read c := by
  rw [Memory.read_writeFrom, dif_neg (by omega)]

/-! ### The canonical form -/

theorem Memory.wfFrom_mono {lo lo' : Nat} {m : Memory} (h : Memory.wfFrom lo m) (hlo : lo' ≤ lo) :
    Memory.wfFrom lo' m := by
  cases m with
  | nil => rfl
  | cons e m =>
    obtain ⟨k, b⟩ := e
    simp only [Memory.wfFrom, Bool.and_eq_true, decide_eq_true_eq] at h ⊢
    exact ⟨⟨⟨by omega, h.1.1.2⟩, h.1.2⟩, h.2⟩

theorem Memory.wfFrom_erase {lo : Nat} {m : Memory} (h : Memory.wfFrom lo m) (a : Nat) :
    Memory.wfFrom lo (m.erase a) := by
  induction m generalizing lo with
  | nil => rfl
  | cons e m ih =>
    obtain ⟨k, b⟩ := e
    simp only [Memory.wfFrom, Bool.and_eq_true, decide_eq_true_eq] at h
    by_cases hk : k = a
    · have : Memory.erase ((k, b) :: m) a = Memory.erase m a := by simp [Memory.erase, hk]
      rw [this]
      exact ih (Memory.wfFrom_mono h.2 (by omega))
    · have : Memory.erase ((k, b) :: m) a = (k, b) :: Memory.erase m a := by simp [Memory.erase, hk]
      simp only [this, Memory.wfFrom, Bool.and_eq_true, decide_eq_true_eq]
      exact ⟨h.1, ih h.2⟩

theorem Memory.wfFrom_insert {lo : Nat} {m : Memory} (h : Memory.wfFrom lo m) {a : Nat} {b : Byte}
    (hlo : lo ≤ a) (ha : a < Config.memSize) (hb : b ≠ Memory.initial a) (hm : ∀ e ∈ m, e.1 ≠ a) :
    Memory.wfFrom lo (m.insert a b) := by
  induction m generalizing lo with
  | nil => simp_all [Memory.insert, Memory.wfFrom]
  | cons e m ih =>
    obtain ⟨k, c⟩ := e
    have hk : k ≠ a := hm (k, c) (by simp)
    simp only [Memory.wfFrom, Bool.and_eq_true, decide_eq_true_eq, bne_iff_ne] at h
    unfold Memory.insert
    split
    · simp only [Memory.wfFrom, Bool.and_eq_true, decide_eq_true_eq, bne_iff_ne]
      exact ⟨⟨⟨hlo, ha⟩, hb⟩, ⟨⟨by omega, h.1.1.2⟩, h.1.2⟩, h.2⟩
    · simp only [Memory.wfFrom, Bool.and_eq_true, decide_eq_true_eq, bne_iff_ne]
      exact ⟨h.1, ih h.2 (by omega) (fun e he => hm e (by simp [he]))⟩

/-- A store to an address that exists keeps the canonical form. -/
theorem Memory.wf_write {m : Memory} (h : m.wf) {a : Nat} (ha : a < Config.memSize) (b : Byte) :
    (m.write a b).wf := by
  unfold Memory.write
  split
  · exact Memory.wfFrom_erase h a
  · rename_i hb
    exact Memory.wfFrom_insert (Memory.wfFrom_erase h a) (Nat.zero_le a) ha hb
      (by intro e he; simpa using (List.mem_filter.mp he).2)

/-- Stores to addresses that exist keep the canonical form. -/
theorem Memory.wf_writeFrom {m : Memory} (h : m.wf) {a : Nat} {bs : List Byte}
    (ha : a + bs.length ≤ Config.memSize) : (m.writeFrom a bs).wf := by
  induction bs generalizing m a with
  | nil => exact h
  | cons b bs ih =>
    simp only [List.length_cons] at ha
    exact ih (Memory.wf_write h (by omega) b) (by omega)

theorem Memory.wf_nil : Memory.wf [] := rfl

/-- Below the first address nothing is listed. -/
theorem Memory.read_below {lo a : Nat} {m : Memory} (h : Memory.wfFrom lo m) (ha : a < lo) :
    m.read a = Memory.initial a := by
  induction m generalizing lo with
  | nil => rfl
  | cons e m ih =>
    obtain ⟨k, b⟩ := e
    simp only [Memory.wfFrom, Bool.and_eq_true, decide_eq_true_eq] at h
    rw [Memory.read_cons, if_neg (by omega)]
    exact ih h.2 (by omega)

/-- Equal memories are equal data: two canonical memories that read alike are the same list. -/
theorem Memory.eq_of_read {lo : Nat} {m m' : Memory} (h : Memory.wfFrom lo m)
    (h' : Memory.wfFrom lo m') (hr : ∀ a, m.read a = m'.read a) : m = m' := by
  induction m generalizing lo m' with
  | nil =>
    cases m' with
    | nil => rfl
    | cons e m' =>
      obtain ⟨k, b⟩ := e
      have := hr k
      simp_all [Memory.wfFrom, Memory.read_cons]
  | cons e m ih =>
    obtain ⟨k, b⟩ := e
    simp only [Memory.wfFrom, Bool.and_eq_true, decide_eq_true_eq, bne_iff_ne] at h
    cases m' with
    | nil => have := hr k; simp_all [Memory.read_cons]
    | cons e' m' =>
      obtain ⟨k', b'⟩ := e'
      simp only [Memory.wfFrom, Bool.and_eq_true, decide_eq_true_eq, bne_iff_ne] at h'
      have hk : k = k' := by
        have e₁ := hr k
        have e₂ := hr k'
        simp only [Memory.read_cons, if_true] at e₁ e₂
        rcases Nat.lt_trichotomy k k' with hlt | heq | hgt
        · rw [if_neg (by omega), Memory.read_below h'.2 (by omega)] at e₁
          exact absurd e₁ h.1.2
        · exact heq
        · rw [if_neg (by omega), Memory.read_below h.2 (by omega)] at e₂
          exact absurd e₂.symm h'.1.2
      subst hk
      have hb : b = b' := by simpa [Memory.read_cons] using hr k
      subst hb
      congr 1
      refine ih h.2 h'.2 fun a => ?_
      by_cases ha : a = k
      · subst ha; rw [Memory.read_below h.2 (by omega), Memory.read_below h'.2 (by omega)]
      · have := hr a
        rwa [Memory.read_cons, Memory.read_cons, if_neg (Ne.symm ha), if_neg (Ne.symm ha)] at this

end Sys2Proof.Machine
end

