-- ==== Sys2Proof/Laws/Ops.lean ====
section
/-! SUPPORT. One lemma per shared operation: everything it can do. -/

namespace Sys2Proof.Machine

/-! ### The call stack (10_state.md R25) -/

theorem State.push_of_room (s : State) (w : Word) (h : s.sp < 16) :
    s.push w = some { s with stack := s.stack ++ [w] } := by simp [State.push, h]

theorem State.push_of_full (s : State) (w : Word) (h : 16 ≤ s.sp) : s.push w = none := by
  simp [State.push, Nat.not_lt.mpr h]

/-- `Push` answers a state only with room, and changes the stack alone. -/
theorem State.push_eq_some {s t : State} {w : Word} (h : s.push w = some t) :
    s.sp < 16 ∧ t = { s with stack := s.stack ++ [w] } := by
  by_cases hs : s.sp < 16
  · rw [State.push_of_room s w hs] at h; exact ⟨hs, (Option.some.inj h).symm⟩
  · rw [State.push_of_full s w (by omega)] at h; cases h

theorem State.push_eq_none {s : State} {w : Word} (h : s.push w = none) : 16 ≤ s.sp := by
  by_cases hs : s.sp < 16
  · rw [State.push_of_room s w hs] at h; cases h
  · omega

theorem State.pop_of_concat (s : State) (st : List Word) (w : Word) (h : s.stack = st ++ [w]) :
    s.pop = some (w, { s with stack := st }) := by simp [State.pop, h]

theorem State.pop_of_empty (s : State) (h : s.stack = []) : s.pop = none := by simp [State.pop, h]

/-- `Pop` answers the last entry and takes it away, and changes the stack alone. -/
theorem State.pop_eq_some {s t : State} {w : Word} (h : s.pop = some (w, t)) :
    s.stack = t.stack ++ [w] ∧ t = { s with stack := t.stack } := by
  rcases List.eq_nil_or_concat s.stack with he | ⟨st, x, he'⟩
  · rw [State.pop_of_empty s he] at h; cases h
  · have he : s.stack = st ++ [x] := by simpa using he'
    rw [State.pop_of_concat s st x he] at h
    cases h
    exact ⟨he, rfl⟩

theorem State.pop_eq_none {s : State} (h : s.pop = none) : s.stack = [] := by
  rcases List.eq_nil_or_concat s.stack with he | ⟨st, x, he'⟩
  · exact he
  · rw [State.pop_of_concat s st x (by simpa using he')] at h; cases h

/-! ### Data accesses (20_memory.md R57) -/

theorem State.dataInRange_iff (s : State) (cnt : Nat) :
    s.dataInRange cnt = true ↔ cnt = 0 ∨ s.i.toNat + cnt - 1 ≤ 0xFFF := by
  simp [State.dataInRange]

/-- An instruction that accesses memory has its whole effect, or raises and has none. -/
theorem withData_cases (instr : Instr) (s : State) (effect : State → State) :
    (s.dataInRange (dataCount instr) = true ∧ withData instr s effect = .next (effect s)) ∨
      (0 < dataCount instr ∧ 0xFFF < s.i.toNat + dataCount instr - 1 ∧
        withData instr s effect = .next (s.raise .addressOutOfRange (encode instr))) := by
  by_cases h : s.dataInRange (dataCount instr) = true
  · exact .inl ⟨h, by simp [withData, h]⟩
  · have h' := h
    rw [State.dataInRange_iff] at h'
    exact .inr ⟨by omega, by omega, by simp [withData, h]⟩

theorem withData_inRange {instr : Instr} {s : State} (effect : State → State)
    (h : s.dataInRange (dataCount instr) = true) : withData instr s effect = .next (effect s) := by
  simp [withData, h]

/-- `Fx33` with its three bytes in memory (R164). -/
theorem execLdB_inRange (x : Reg) {s : State} (h : s.i.toNat + 2 ≤ 0xFFF) :
    exec (.ldB x) s = .next (s.storeData (decimalDigits (s.getV x))).advance := by
  have hr : s.dataInRange (dataCount (.ldB x)) = true := by
    rw [State.dataInRange_iff, dataCount]; omega
  simp only [exec, execLdB, withData, hr, if_true]

/-- `Fx55` with its range in memory (R165). -/
theorem execStoreRegs_inRange (x : Reg) {s : State} (h : s.i.toNat + x.toNat ≤ 0xFFF) :
    exec (.storeRegs x) s = .next (s.storeData (s.regsUpTo x)).advance := by
  have hr : s.dataInRange (dataCount (.storeRegs x)) = true := by
    rw [State.dataInRange_iff, dataCount]; omega
  simp only [exec, execStoreRegs, withData, hr, if_true]

/-- `Fx65` with its range in memory (R166). -/
theorem execLoadRegs_inRange (x : Reg) {s : State} (h : s.i.toNat + x.toNat ≤ 0xFFF) :
    exec (.loadRegs x) s =
      .next ((s.loadRegsUpTo x).setI (s.i + (x.setWidth 16 + 1#16))).advance := by
  have hr : s.dataInRange (dataCount (.loadRegs x)) = true := by
    rw [State.dataInRange_iff, dataCount]; omega
  simp only [exec, execLoadRegs, withData, hr, if_true]

/-- `Dxyn` with its sprite in memory (R181). -/
theorem execDrw_inRange (x y : Reg) (n : Nibble) {s : State}
    (h : n = 0 ∨ s.i.toNat + n.toNat - 1 ≤ 0xFFF) :
    exec (.drw x y n) s = .next (s.drawSprite x y n).advance := by
  have hr : s.dataInRange (dataCount (.drw x y n)) = true := by
    rw [State.dataInRange_iff, dataCount]
    rcases h with rfl | h
    · exact .inl rfl
    · exact .inr h
  simp only [exec, execDrw, withData, hr, if_true]

/-! ### The scan of the keys (46_keys_timers.md R192) -/

/-- The scan answers the least pressed key. -/
theorem State.scanKeys_eq_some {s : State} {k : Nat} :
    s.scanKeys = some k ↔ k < 16 ∧ s.pressed k = true ∧ ∀ j, j < k → s.pressed j = false := by
  simp only [State.scanKeys, Param.keyWaitPriority, List.find?_range_eq_some, List.mem_range]
  grind

theorem State.scanKeys_eq_none {s : State} :
    s.scanKeys = none ↔ ∀ k, k < 16 → s.pressed k = false := by
  simp [State.scanKeys]

/-! ### The blitter (45_display.md R181) -/

/-- The pixels of a list, each flipped as often as it is listed. -/
def pixelMask : List Nat → Framebuffer
  | [] => 0
  | k :: ks => BitVec.twoPow 2048 k ^^^ pixelMask ks

/-- The blitter XORs the pixels into the framebuffer. -/
theorem blit_fst (ks : List Nat) (fb : Framebuffer) (c : Bool) :
    (blit ks (fb, c)).1 = fb ^^^ pixelMask ks := by
  induction ks generalizing fb c with
  | nil => simp [blit, pixelMask]
  | cons k ks ih => simp [blit, pixelMask, ih, flipPixel, BitVec.xor_assoc]

theorem pixelAt_pixelMask {ks : List Nat} (hn : ks.Nodup) {k : Nat} (hk : k < 2048) :
    pixelAt (pixelMask ks) k = decide (k ∈ ks) := by
  induction ks with
  | nil => simp [pixelAt, pixelMask]
  | cons a ks ih =>
    rw [List.nodup_cons] at hn
    have := ih hn.2
    simp only [pixelAt] at this
    by_cases ha : a = k
    · subst ha
      simp_all [pixelAt, pixelMask]
    · have : k ≠ a := Ne.symm ha
      simp_all [pixelAt, pixelMask]

/-- Pixel by pixel: a listed pixel is inverted, every other one stays. -/
theorem pixelAt_blit {ks : List Nat} (hn : ks.Nodup) (fb : Framebuffer) (c : Bool) {k : Nat}
    (hk : k < 2048) :
    pixelAt (blit ks (fb, c)).1 k = (pixelAt fb k ^^ decide (k ∈ ks)) := by
  have := pixelAt_pixelMask hn hk
  simp only [pixelAt] at this
  rw [blit_fst, pixelAt, BitVec.getLsbD_xor, this, pixelAt]

/-- A collision is a listed pixel that was 1 (R182). -/
theorem blit_snd {ks : List Nat} (hn : ks.Nodup) (hb : ∀ k ∈ ks, k < 2048) (fb : Framebuffer)
    (c : Bool) : (blit ks (fb, c)).2 = (c || ks.any (pixelAt fb)) := by
  induction ks generalizing fb c with
  | nil => simp [blit]
  | cons k ks ih =>
    rw [List.nodup_cons] at hn
    have same : ks.any (pixelAt (flipPixel fb k)) = ks.any (pixelAt fb) := by
      refine Bool.eq_iff_iff.mpr ?_
      simp only [List.any_eq_true]
      refine exists_congr fun j => and_congr_right fun hj => ?_
      have hjk : k ≠ j := fun e => hn.1 (e ▸ hj)
      simp [flipPixel, pixelAt, BitVec.getLsbD_twoPow, hjk]
    rw [blit, ih hn.2 (fun j hj => hb j (by simp [hj])), same, List.any_cons]
    cases c <;> simp

/-- The pixels of a sprite: those that a set bit of it names (R181). -/
theorem mem_spritePixels {m : Memory} {base : Nat} {vx vy : Byte} {n k : Nat} :
    k ∈ spritePixels m base vx vy n ↔
      ∃ r c, r < n ∧ c < 8 ∧ (m.read (base + r)).getLsbD (7 - c) = true ∧
        k = (vy.toNat + r) % 32 * 64 + (vx.toNat + c) % 64 := by
  simp only [spritePixels, List.mem_flatMap, List.mem_range, List.mem_filterMap, pixelIndex,
    Config.fbWidth, Config.fbHeight]
  constructor
  · rintro ⟨r, hr, c, hc, h⟩
    split at h
    · rename_i hb; exact ⟨r, c, hr, hc, hb, (Option.some.inj h).symm⟩
    · cases h
  · rintro ⟨r, c, hr, hc, hb, rfl⟩
    exact ⟨r, hr, c, hc, by rw [if_pos hb]⟩

theorem spritePixels_lt {m : Memory} {base : Nat} {vx vy : Byte} {n k : Nat}
    (h : k ∈ spritePixels m base vx vy n) : k < 2048 := by
  obtain ⟨r, c, -, -, -, rfl⟩ := mem_spritePixels.mp h
  omega

/-- "No two sprite pixels of one `Dxyn` land on the same framebuffer pixel" (R181). -/
theorem spritePixels_nodup (m : Memory) (base : Nat) (vx vy : Byte) {n : Nat} (hn : n ≤ 32) :
    (spritePixels m base vx vy n).Nodup := by
  unfold spritePixels List.Nodup
  rw [List.pairwise_flatMap]
  have key : ∀ {r c k : Nat},
      (if (m.read (base + r)).getLsbD (7 - c) = true then
        some (pixelIndex ((vx.toNat + c) % Config.fbWidth) ((vy.toNat + r) % Config.fbHeight))
        else none) = some k → k = (vy.toNat + r) % 32 * 64 + (vx.toNat + c) % 64 := by
    intro r c k h
    split at h
    · exact (Option.some.inj h).symm
    · cases h
  constructor
  · intro r _
    rw [List.pairwise_filterMap]
    refine List.Pairwise.imp_of_mem ?_ (List.pairwise_lt_range (n := 8))
    intro c c' hc hc' hlt k hk k' hk'
    have := key hk
    have := key hk'
    rw [List.mem_range] at hc hc'
    omega
  · refine List.Pairwise.imp_of_mem ?_ (List.pairwise_lt_range (n := n))
    intro r r' hr hr' hlt k hk k' hk'
    rw [List.mem_filterMap] at hk hk'
    obtain ⟨c, -, hk⟩ := hk
    obtain ⟨c', -, hk'⟩ := hk'
    have := key hk
    have := key hk'
    rw [List.mem_range] at hr hr'
    omega

end Sys2Proof.Machine
end

