-- ==== Sys2Proof/Laws/PerInstr.lean ====
section
/-! SUPPORT. Statements for all instructions, made per instruction. `FitsRow`: the word of an instruction
selects that instruction's row of the opcode map (30_encoding.md R71, R80). -/

namespace Sys2Proof.Laws.FitsRow

/-- The encoded word carries the fixed bits of its row. -/
def Statement (i : Instr) : Prop := i.row.selects (encode i) = true

theorem mask_nnn (h : Nibble) (a : Addr) : wordNNN h a &&& 0xF000#16 = wordNNN h 0 := by
  show (h ++ a : BitVec (4 + 12)) &&& (0xF#4 ++ 0x000#12) = h ++ 0#12
  rw [BitVec.and_append, BitVec.and_zero, show (0xF#4) = BitVec.allOnes 4 from rfl, BitVec.and_allOnes]

theorem mask_xkk (h : Nibble) (x : Reg) (kk : Byte) : wordXKK h x kk &&& 0xF000#16 = wordXKK h 0 0 := by
  show (h ++ x ++ kk : BitVec (4 + 4 + 8)) &&& (0xF#4 ++ 0x0#4 ++ 0x00#8) = h ++ 0#4 ++ 0#8
  rw [BitVec.and_append, BitVec.and_append, BitVec.and_zero, BitVec.and_zero,
    show (0xF#4) = BitVec.allOnes 4 from rfl, BitVec.and_allOnes]

theorem mask_xLow (h : Nibble) (x : Reg) (kk : Byte) : wordXKK h x kk &&& 0xF0FF#16 = wordXKK h 0 kk := by
  show (h ++ x ++ kk : BitVec (4 + 4 + 8)) &&& (0xF#4 ++ 0x0#4 ++ 0xFF#8) = h ++ 0#4 ++ kk
  rw [BitVec.and_append, BitVec.and_append, BitVec.and_zero, show (0xF#4) = BitVec.allOnes 4 from rfl,
    show (0xFF#8) = BitVec.allOnes 8 from rfl, BitVec.and_allOnes, BitVec.and_allOnes]

theorem mask_xyn (h : Nibble) (x y : Reg) (n : Nibble) :
    wordXYN h x y n &&& 0xF000#16 = wordXYN h 0 0 0 := by
  show (h ++ x ++ y ++ n : BitVec (4 + 4 + 4 + 4)) &&& (0xF#4 ++ 0x0#4 ++ 0x0#4 ++ 0x0#4) =
    h ++ 0#4 ++ 0#4 ++ 0#4
  rw [BitVec.and_append, BitVec.and_append, BitVec.and_append, BitVec.and_zero, BitVec.and_zero,
    BitVec.and_zero, show (0xF#4) = BitVec.allOnes 4 from rfl, BitVec.and_allOnes]

theorem mask_xyLow (h : Nibble) (x y : Reg) (n : Nibble) :
    wordXYN h x y n &&& 0xF00F#16 = wordXYN h 0 0 n := by
  show (h ++ x ++ y ++ n : BitVec (4 + 4 + 4 + 4)) &&& (0xF#4 ++ 0x0#4 ++ 0x0#4 ++ 0xF#4) =
    h ++ 0#4 ++ 0#4 ++ n
  rw [BitVec.and_append, BitVec.and_append, BitVec.and_append, BitVec.and_zero, BitVec.and_zero,
    show (0xF#4) = BitVec.allOnes 4 from rfl, BitVec.and_allOnes, BitVec.and_allOnes]

theorem cls : Statement .cls := by unfold Statement; decide

theorem ret : Statement .ret := by unfold Statement; decide

theorem jp (nnn : Addr) : Statement (.jp nnn) :=
  beq_iff_eq.mpr ((mask_nnn 0x1 nnn).trans rfl)

theorem call (nnn : Addr) : Statement (.call nnn) :=
  beq_iff_eq.mpr ((mask_nnn 0x2 nnn).trans rfl)

theorem seImm (x : Reg) (kk : Byte) : Statement (.seImm x kk) :=
  beq_iff_eq.mpr ((mask_xkk 0x3 x kk).trans rfl)

theorem sneImm (x : Reg) (kk : Byte) : Statement (.sneImm x kk) :=
  beq_iff_eq.mpr ((mask_xkk 0x4 x kk).trans rfl)

theorem seReg (x y : Reg) : Statement (.seReg x y) :=
  beq_iff_eq.mpr ((mask_xyLow 0x5 x y 0x0).trans rfl)

theorem sneReg (x y : Reg) : Statement (.sneReg x y) :=
  beq_iff_eq.mpr ((mask_xyLow 0x9 x y 0x0).trans rfl)

theorem ldImm (x : Reg) (kk : Byte) : Statement (.ldImm x kk) :=
  beq_iff_eq.mpr ((mask_xkk 0x6 x kk).trans rfl)

theorem addImm (x : Reg) (kk : Byte) : Statement (.addImm x kk) :=
  beq_iff_eq.mpr ((mask_xkk 0x7 x kk).trans rfl)

theorem ldReg (x y : Reg) : Statement (.ldReg x y) :=
  beq_iff_eq.mpr ((mask_xyLow 0x8 x y 0x0).trans rfl)

theorem orReg (x y : Reg) : Statement (.orReg x y) :=
  beq_iff_eq.mpr ((mask_xyLow 0x8 x y 0x1).trans rfl)

theorem andReg (x y : Reg) : Statement (.andReg x y) :=
  beq_iff_eq.mpr ((mask_xyLow 0x8 x y 0x2).trans rfl)

theorem xorReg (x y : Reg) : Statement (.xorReg x y) :=
  beq_iff_eq.mpr ((mask_xyLow 0x8 x y 0x3).trans rfl)

theorem addReg (x y : Reg) : Statement (.addReg x y) :=
  beq_iff_eq.mpr ((mask_xyLow 0x8 x y 0x4).trans rfl)

theorem subReg (x y : Reg) : Statement (.subReg x y) :=
  beq_iff_eq.mpr ((mask_xyLow 0x8 x y 0x5).trans rfl)

theorem shr (x y : Reg) : Statement (.shr x y) :=
  beq_iff_eq.mpr ((mask_xyLow 0x8 x y 0x6).trans rfl)

theorem subnReg (x y : Reg) : Statement (.subnReg x y) :=
  beq_iff_eq.mpr ((mask_xyLow 0x8 x y 0x7).trans rfl)

theorem shl (x y : Reg) : Statement (.shl x y) :=
  beq_iff_eq.mpr ((mask_xyLow 0x8 x y 0xE).trans rfl)

theorem ldI (nnn : Addr) : Statement (.ldI nnn) :=
  beq_iff_eq.mpr ((mask_nnn 0xA nnn).trans rfl)

theorem jpV0 (nnn : Addr) : Statement (.jpV0 nnn) :=
  beq_iff_eq.mpr ((mask_nnn 0xB nnn).trans rfl)

theorem rnd (x : Reg) (kk : Byte) : Statement (.rnd x kk) :=
  beq_iff_eq.mpr ((mask_xkk 0xC x kk).trans rfl)

theorem drw (x y : Reg) (n : Nibble) : Statement (.drw x y n) :=
  beq_iff_eq.mpr ((mask_xyn 0xD x y n).trans rfl)

theorem skp (x : Reg) : Statement (.skp x) :=
  beq_iff_eq.mpr ((mask_xLow 0xE x 0x9E).trans rfl)

theorem sknp (x : Reg) : Statement (.sknp x) :=
  beq_iff_eq.mpr ((mask_xLow 0xE x 0xA1).trans rfl)

theorem ldVxDt (x : Reg) : Statement (.ldVxDt x) :=
  beq_iff_eq.mpr ((mask_xLow 0xF x 0x07).trans rfl)

theorem ldDtVx (x : Reg) : Statement (.ldDtVx x) :=
  beq_iff_eq.mpr ((mask_xLow 0xF x 0x15).trans rfl)

theorem ldStVx (x : Reg) : Statement (.ldStVx x) :=
  beq_iff_eq.mpr ((mask_xLow 0xF x 0x18).trans rfl)

theorem addI (x : Reg) : Statement (.addI x) :=
  beq_iff_eq.mpr ((mask_xLow 0xF x 0x1E).trans rfl)

theorem ldF (x : Reg) : Statement (.ldF x) :=
  beq_iff_eq.mpr ((mask_xLow 0xF x 0x29).trans rfl)

theorem ldB (x : Reg) : Statement (.ldB x) :=
  beq_iff_eq.mpr ((mask_xLow 0xF x 0x33).trans rfl)

theorem storeRegs (x : Reg) : Statement (.storeRegs x) :=
  beq_iff_eq.mpr ((mask_xLow 0xF x 0x55).trans rfl)

theorem loadRegs (x : Reg) : Statement (.loadRegs x) :=
  beq_iff_eq.mpr ((mask_xLow 0xF x 0x65).trans rfl)

theorem ldKey (x : Reg) : Statement (.ldKey x) :=
  beq_iff_eq.mpr ((mask_xLow 0xF x 0x0A).trans rfl)

end Sys2Proof.Laws.FitsRow
end

