-- ==== Sys2Proof/Laws/Step.lean ====
section
/-! SUPPORT. What one step can do, said once: the cases of the `Step` event (60_exceptions.md R217,
R230) and the event a step performs (R222). -/

namespace Sys2Proof.Machine

/-- `Step` does nothing, or raises at the fetch, or raises at decode, or executes one instruction. -/
theorem stepInstr_cases (s : State) :
    ((s.loaded = false ∨ s.fault.isSome = true) ∧ stepInstr s = .next s) ∨
      (s.loaded = true ∧ s.fault = none ∧
        ((s.canFetch = false ∧ stepInstr s = .next (s.raise .fetchOutOfRange 0#16)) ∨
          (s.canFetch = true ∧ decodeWord s.fetchWord = .error (.unsupported s.fetchWord) ∧
            stepInstr s = .next (s.raise .unsupportedOpcode s.fetchWord)) ∨
          (s.canFetch = true ∧ ∃ i, decodeWord s.fetchWord = .ok i ∧ stepInstr s = exec i s))) := by
  by_cases hl : s.loaded = false
  · exact .inl ⟨.inl hl, by simp [stepInstr, hl]⟩
  · by_cases hf : s.fault.isSome = true
    · exact .inl ⟨.inr hf, by simp [stepInstr, hf]⟩
    · refine .inr ⟨by simpa using hl, by simpa using hf, ?_⟩
      by_cases hc : s.canFetch = false
      · exact .inl ⟨hc, by simp [stepInstr, hl, hf, hc]⟩
      · have hc' : s.canFetch = true := by simpa using hc
        cases hd : decodeWord s.fetchWord with
        | ok i => exact .inr (.inr ⟨hc', i, rfl, by simp [stepInstr, hl, hf, hc', hd]⟩)
        | error e =>
          have := decodeWord_error hd
          subst this
          exact .inr (.inl ⟨hc', rfl, by simp [stepInstr, hl, hf, hc', hd]⟩)

/-- With no event named, a step is `Step`. -/
theorem step_of_no_event {s : State} (h : s.env.script = []) : step s = stepInstr s := by
  simp [step, nextEvent, h]

/-- With an event named, a step performs it. -/
theorem step_of_event {s : State} {e : Event} {es : List Event} (h : s.env.script = e :: es) :
    step s = performEvent e (s.takeEvent es) := by
  simp [step, nextEvent, h]

theorem onNext_eq_next {f : State → State} {o : Host.Outcome State Fault Refusal} {t : State} :
    onNext f o = .next t ↔ ∃ u, o = .next u ∧ f u = t := by
  cases o <;> simp [onNext]

/-- One step of a run that goes on. -/
theorem run_succ (M : Host.Core) {s t : M.State} (h : M.step s = .next t) (k : Nat) :
    M.run (k + 1) s = M.run k t := by
  simp [Host.Core.run, h]

/-- One step of this machine's run. -/
theorem core_run_succ {s t : State} (h : step s = .next t) (k : Nat) :
    core.run (k + 1) s = core.run k t :=
  run_succ core h k

/-- Neither gate nor latch nor fetch stops the step that follows `withFetchWord`, and it fetches the word. -/
theorem fetch_withFetchWord (s : State) (w : Word) :
    (s.withFetchWord 16 w.toNat).canFetch = true ∧
      (s.withFetchWord 16 w.toNat).fetchWord = w := by
  constructor
  · show decide _ = true
    simp only [State.withFetchWord, State.placeWord]
    by_cases h : s.pc.toNat ≤ 0xFFE <;> simp [State.canFetch, h]
  · have hw : tableWord 16 w.toNat = w :=
      BitVec.eq_of_toNat_eq (by have := w.isLt; simp only [tableWord, BitVec.toNat_ofNat]; omega)
    have hb : w.extractLsb' 8 8 ++ w.extractLsb' 0 8 = w := by
      have := slices_append w 0 8 8
      simpa [slice_all] using this
    simp only [State.withFetchWord, State.placeWord, State.fetchWord, hw, bytesOfWord]
    rw [Memory.read_writeFrom, Memory.read_writeFrom]
    simpa [wordOfBytes] using hb

end Sys2Proof.Machine
end

