-- ==== Sys2Proof/Tests/Slice0.lean ====
section
/-! SUPPORT. Tests with results from 95_test_vectors.md (worked by the spec from its rules, not by this
model), the smoke tests of WellFormed.lean, and a witness for every statement with hypotheses. -/

namespace Sys2Proof.Tests

open Sys2Proof Sys2Proof.Machine

/-! ### Well-formedness: an ill-formed term for each check -/

/-- 95_test_vectors.md 2.1: words of no row, one or more for each of R74, R75, R76, R77, R78. -/
theorem test_illFormed_words_are_refused :
    [0x0000, 0x00E1, 0x0123, 0x5121, 0x9121, 0x8128, 0x812F, 0xE19F, 0xE1A0, 0xF030, 0xFFFF].all
      (fun w : Word => !wordWellFormed w) = true := by decide

theorem test_wellFormed_words_are_accepted :
    [0x00E0, 0x00EE, 0x1000, 0x5120, 0x9120, 0x812E, 0xE09E, 0xE0A1, 0xF00A, 0xF065].all
      wordWellFormed = true := by decide

/-- R229: offsets 0..3583 only. -/
theorem test_romOffset_3584_is_refused :
    romOffsetWellFormed 3584 = false ∧ romOffsetWellFormed 3583 = true := by decide

/-- R53: "a longer image is not accepted". -/
theorem test_image_of_3585_is_refused :
    imageWellFormed (List.replicate 3585 0) = false ∧
      imageWellFormed (List.replicate 3584 0) = true := by
  rw [imageWellFormed, imageWellFormed, List.length_replicate, List.length_replicate]
  decide

/-! ### Decoding: words written out from the encodings (R71, R80; 95_test_vectors.md 2.1) -/

theorem test_decode_control :
    decodeTableWord 16 0x00EE = some .ret ∧ decodeTableWord 16 0x10E0 = some (.jp 0x0E0) ∧
    decodeTableWord 16 0x2300 = some (.call 0x300) ∧
    decodeTableWord 16 0xBFFF = some (.jpV0 0xFFF) := by decide

theorem test_decode_skips :
    decodeTableWord 16 0x3A42 = some (.seImm 0xA 0x42) ∧
    decodeTableWord 16 0x4A42 = some (.sneImm 0xA 0x42) ∧
    decodeTableWord 16 0x5120 = some (.seReg 1 2) ∧
    decodeTableWord 16 0x9120 = some (.sneReg 1 2) := by decide

theorem test_decode_immediate :
    decodeTableWord 16 0x6F33 = some (.ldImm 0xF 0x33) ∧
    decodeTableWord 16 0x7101 = some (.addImm 1 0x01) ∧
    decodeTableWord 16 0xC10F = some (.rnd 1 0x0F) := by decide

theorem test_decode_alu :
    decodeTableWord 16 0x8120 = some (.ldReg 1 2) ∧ decodeTableWord 16 0x8121 = some (.orReg 1 2) ∧
    decodeTableWord 16 0x8122 = some (.andReg 1 2) ∧ decodeTableWord 16 0x8123 = some (.xorReg 1 2) ∧
    decodeTableWord 16 0x8124 = some (.addReg 1 2) ∧ decodeTableWord 16 0x8125 = some (.subReg 1 2) ∧
    decodeTableWord 16 0x8126 = some (.shr 1 2) ∧ decodeTableWord 16 0x8127 = some (.subnReg 1 2) ∧
    decodeTableWord 16 0x812E = some (.shl 1 2) := by decide

theorem test_decode_index :
    decodeTableWord 16 0xAFFF = some (.ldI 0xFFF) ∧ decodeTableWord 16 0xF21E = some (.addI 2) ∧
    decodeTableWord 16 0xF429 = some (.ldF 4) ∧ decodeTableWord 16 0xF133 = some (.ldB 1) ∧
    decodeTableWord 16 0xF255 = some (.storeRegs 2) ∧
    decodeTableWord 16 0xFF65 = some (.loadRegs 0xF) := by decide

theorem test_decode_display :
    decodeTableWord 16 0x00E0 = some .cls ∧ decodeTableWord 16 0xD7A5 = some (.drw 7 0xA 5) ∧
    decodeTableWord 16 0xD000 = some (.drw 0 0 0) := by decide

theorem test_decode_keys :
    decodeTableWord 16 0xEF9E = some (.skp 0xF) ∧ decodeTableWord 16 0xE0A1 = some (.sknp 0) ∧
    decodeTableWord 16 0xF107 = some (.ldVxDt 1) ∧ decodeTableWord 16 0xF115 = some (.ldDtVx 1) ∧
    decodeTableWord 16 0xF118 = some (.ldStVx 1) ∧
    decodeTableWord 16 0xF50A = some (.ldKey 5) := by decide

/-- R54: the bytes exchanged make another instruction (95_test_vectors.md 2.1). -/
theorem test_decode_byte_order :
    ((decode [0xD7, 0xA5]).toOption.map Prod.fst) = some (.drw 7 0xA 5) ∧
    ((decode [0xA5, 0xD7]).toOption.map Prod.fst) = some (.ldI 0x5D7) := by decide

/-! ### One step each (95_test_vectors.md part 2) -/

/-- What `view` sees after the one step that runs the word `w`, placed at `pc` of `prepare reset`. -/
def after {α : Type} (w : Nat) (prepare : State → State) (view : State → α) : Option α :=
  match step ((prepare State.reset).withFetchWord 16 w) with
  | .next t => some (view t)
  | _ => none

/-- Registers set from a list. -/
def withV (vs : List (Reg × Byte)) (s : State) : State :=
  vs.foldl (fun s p => s.setV p.1 p.2) s

/-- The fault record as the spec writes it: (code, word, at). -/
def record (s : State) : Option (Nat × Word × Word) :=
  s.fault.map fun f => (f.cause.code, f.word, f.pc)

theorem test_jp : after 0x1234 id (·.pc) = some 0x0234 := by decide

theorem test_call :
    after 0x2300 (·.setPc 0x0204) (fun t => (t.pc, t.stack)) = some (0x0300, [0x0206]) := by decide

/-- The 17th push (R214). -/
theorem test_call_full :
    after 0x2300 (fun s => { s with pc := 0x0204, stack := List.replicate 16 0x0202 })
      (fun t => (t.pc, t.sp, record t)) = some (0x0204, 16, some (3, 0x2300, 0x0204)) := by decide

/-- Last in, first out. -/
theorem test_ret :
    after 0x00EE (fun s => { s with pc := 0x0300, stack := [0x0206, 0x0ABC] })
      (fun t => (t.pc, t.stack)) = some (0x0ABC, [0x0206]) := by decide

theorem test_ret_empty :
    after 0x00EE (·.setPc 0x0202) (fun t => (t.pc, record t)) =
      some (0x0202, some (2, 0x00EE, 0x0202)) := by decide

/-- `V0` is added, not `V2`, and the sum is not masked. -/
theorem test_jpV0 :
    after 0xB201 (withV [(0, 0x02), (2, 0x77)]) (·.pc) = some 0x0203 ∧
    after 0xBFFF (withV [(0, 0xFF)]) (·.pc) = some 0x10FE := by decide

theorem test_seImm :
    after 0x3A42 (withV [(0xA, 0x42)]) (·.pc) = some 0x0204 ∧
    after 0x3A42 (withV [(0xA, 0x41)]) (·.pc) = some 0x0202 := by decide

theorem test_sneImm :
    after 0x4A42 (withV [(0xA, 0x42)]) (·.pc) = some 0x0202 ∧
    after 0x4A42 (withV [(0xA, 0x41)]) (·.pc) = some 0x0204 := by decide

theorem test_seReg :
    after 0x5120 (withV [(1, 7), (2, 7)]) (·.pc) = some 0x0204 ∧
    after 0x5120 (withV [(1, 7), (2, 8)]) (·.pc) = some 0x0202 := by decide

theorem test_sneReg :
    after 0x9120 (withV [(1, 7), (2, 7)]) (·.pc) = some 0x0202 ∧
    after 0x9120 (withV [(1, 7), (2, 8)]) (·.pc) = some 0x0204 := by decide

theorem test_ldImm :
    after 0x6F33 id (fun t => (t.vf, t.pc)) = some (0x33, 0x0202) := by decide

/-- No carry flag. -/
theorem test_addImm :
    after 0x7101 (withV [(1, 0xFF), (0xF, 0x55)]) (fun t => (t.getV 1, t.vf)) =
      some (0x00, 0x55) := by decide

theorem test_rnd :
    after 0xC10F (·.offerRandom 0xA7) (·.getV 1) = some 0x07 ∧
    after 0xC1FF (·.offerRandom 0xA7) (·.getV 1) = some 0xA7 := by decide

/-- For every `r`, the free value included. -/
theorem test_rnd_mask_zero : after 0xC100 (withV [(1, 0x99)]) (·.getV 1) = some 0x00 := by
  show some (Config.freeByte 0 &&& 0#8) = _
  simp

theorem test_ldReg :
    after 0x8120 (withV [(2, 0x3C)]) (·.getV 1) = some 0x3C ∧
    after 0x8F20 (withV [(2, 0x3C)]) (·.vf) = some 0x3C := by decide

theorem test_orReg :
    after 0x8121 (withV [(1, 0xF0), (2, 0x3C), (0xF, 1)]) (fun t => (t.getV 1, t.vf)) =
      some (0xFC, 1) := by decide

theorem test_andReg :
    after 0x8122 (withV [(1, 0xF0), (2, 0x3C), (0xF, 1)]) (fun t => (t.getV 1, t.vf)) =
      some (0x30, 1) := by decide

theorem test_xorReg :
    after 0x8123 (withV [(1, 0xF0), (2, 0x3C), (0xF, 1)]) (fun t => (t.getV 1, t.vf)) =
      some (0xCC, 1) := by decide

theorem test_addReg :
    after 0x8124 (withV [(1, 0xC8), (2, 0x64)]) (fun t => (t.getV 1, t.vf)) = some (0x2C, 1) ∧
    after 0x8124 (withV [(1, 0x80), (2, 0x7F)]) (fun t => (t.getV 1, t.vf)) = some (0xFF, 0) := by
  decide

/-- The flag wins for `x = F`; an old `VF` is the operand for `y = F`. -/
theorem test_addReg_flag :
    after 0x8F24 (withV [(0xF, 0xF0), (2, 0x20)]) (·.vf) = some 1 ∧
    after 0x81F4 (withV [(1, 0x10), (0xF, 0x01)]) (fun t => (t.getV 1, t.vf)) =
      some (0x11, 0) := by decide

/-- Equal operands leave 0 (90_conflicts.md C4). -/
theorem test_subReg :
    after 0x8125 (withV [(1, 0x0A), (2, 0x03)]) (fun t => (t.getV 1, t.vf)) = some (0x07, 1) ∧
    after 0x8125 (withV [(1, 0x05), (2, 0x05)]) (fun t => (t.getV 1, t.vf)) = some (0x00, 0) := by
  decide

theorem test_subReg_flag :
    after 0x8125 (withV [(1, 0x03), (2, 0x05)]) (fun t => (t.getV 1, t.vf)) = some (0xFE, 0) ∧
    after 0x8F25 (withV [(0xF, 0x09), (2, 0x03)]) (·.vf) = some 1 := by decide

theorem test_subnReg :
    after 0x8127 (withV [(1, 0x05), (2, 0x03)]) (fun t => (t.getV 1, t.vf)) = some (0xFE, 0) ∧
    after 0x8127 (withV [(1, 0x03), (2, 0x05)]) (fun t => (t.getV 1, t.vf)) = some (0x02, 1) := by
  decide

theorem test_subnReg_equal :
    after 0x8127 (withV [(1, 0x09), (2, 0x09)]) (fun t => (t.getV 1, t.vf)) = some (0x00, 0) := by
  decide

theorem test_shr :
    after 0x8126 (withV [(1, 0x04), (2, 0xFF)]) (fun t => (t.getV 1, t.getV 2, t.vf)) =
      some (0x02, 0xFF, 0) ∧
    after 0x8F06 (withV [(0xF, 0x03)]) (·.vf) = some 1 := by decide

theorem test_shl :
    after 0x812E (withV [(1, 0xFF), (2, 0)]) (fun t => (t.getV 1, t.vf)) = some (0xFE, 1) ∧
    after 0x812E (withV [(1, 0x7F)]) (fun t => (t.getV 1, t.vf)) = some (0xFE, 0) := by decide

theorem test_ldI : after 0xAFFF id (·.i) = some 0x0FFF := by decide

/-- Not masked to 12 bits, and modulo 65536. -/
theorem test_addI :
    after 0xF11E (fun s => (withV [(1, 1), (0xF, 7)] s).setI 0x0FFF) (fun t => (t.i, t.vf)) =
      some (0x1000, 7) ∧
    after 0xF11E (fun s => (withV [(1, 1)] s).setI 0xFFFF) (·.i) = some 0x0000 := by decide

/-- The source's own scenario (S8), and no nibble mask. -/
theorem test_ldF :
    after 0xF029 (withV [(0, 0x0A)]) (·.i) = some 50 ∧
    after 0xF429 (withV [(4, 0xFF)]) (·.i) = some 0x04FB := by decide

theorem test_ldB :
    after 0xF033 (fun s => (withV [(0, 0xFE)] s).setI 0x0FFD)
      (fun t => (t.mem.read 0xFFD, t.mem.read 0xFFE, t.mem.read 0xFFF)) =
      some (2, 5, 4) := by decide

/-- No byte is stored when the range leaves memory (P6e). -/
theorem test_ldB_outOfRange :
    after 0xF133 (fun s => (withV [(1, 0xFE)] s).setI 0x0FFE)
      (fun t => (t.mem.read 0xFFE, t.pc, record t)) =
      some (0, 0x0200, some (4, 0xF133, 0x0200)) := by decide

theorem test_storeRegs :
    after 0xF255 (fun s => (withV [(0, 2), (1, 5), (2, 4), (3, 9)] s).setI 0x0310)
      (fun t => ((List.range 4).map (fun k => t.mem.read (0x310 + k)), t.i)) =
      some ([2, 5, 4, 0], 0x0310) := by decide

theorem test_storeRegs_edge :
    after 0xFF55 (·.setI 0x0FF0) record = some none ∧
    after 0xFF55 (·.setI 0x0FF1) record = some (some (4, 0xFF55, 0x0200)) := by decide

theorem test_loadRegs :
    after 0xF265 (fun s => { s with mem := s.mem.writeFrom 0x300 [2, 5, 4, 9], i := 0x0300 })
      (fun t => (t.getV 0, t.getV 1, t.getV 2, t.getV 3, t.i)) =
      some (2, 5, 4, 0, 0x0303) := by decide

theorem test_loadRegs_edge :
    after 0xF065 (fun s => { s with mem := s.mem.write 0xFFF 0x77, i := 0x0FFF })
      (fun t => (t.getV 0, t.i)) = some (0x77, 0x1000) ∧
    after 0xF165 (·.setI 0x0FFF) (fun t => (t.i, record t)) =
      some (0x0FFF, some (4, 0xF165, 0x0200)) := by decide

/-- The pixels that are 1, of the first `n`, in order of their index. -/
def litBelow (n : Nat) (s : State) : List Nat := (List.range n).filter (pixelAt s.fb)

theorem test_cls :
    after 0x00E0 (fun s => { s with fb := 0xFFFF }) (fun t => (t.fb, t.dirty)) =
      some (0, false) := by decide +kernel

/-- Glyph 0 at the top left: 14 pixels. -/
theorem test_drw :
    after 0xD005 id (fun t => (litBelow 2048 t, t.vf, t.dirty)) =
      some ([0, 1, 2, 3, 64, 67, 128, 131, 192, 195, 256, 257, 258, 259], 0, true) := by
  decide +kernel

/-- One collision of two sprite pixels is enough; the picture wraps on both axes. -/
theorem test_drw_collision_and_wrap :
    after 0xD001 (fun s => { s with mem := s.mem.write 0x300 0xC0, i := 0x0300, fb := 2 })
      (fun t => (litBelow 2048 t, t.vf)) = some ([0], 1) ∧
    after 0xD121 (fun s => { (withV [(1, 70), (2, 33)] s) with
        mem := s.mem.write 0x300 0x80, i := 0x0300 })
      (litBelow 2048) = some [64 + 6] := by decide +kernel

theorem test_skp :
    after 0xE39E (fun s => { (withV [(3, 7)] s) with keys := s.keys.set 7 true }) (·.pc) =
      some 0x0204 ∧
    after 0xE39E (fun s => { (withV [(3, 0x17)] s) with keys := s.keys.set 7 true }) (·.pc) =
      some 0x0202 := by decide

theorem test_sknp :
    after 0xE3A1 (fun s => { (withV [(3, 7)] s) with keys := s.keys.set 7 true }) (·.pc) =
      some 0x0202 ∧
    after 0xE3A1 (fun s => { (withV [(3, 0x17)] s) with keys := s.keys.set 7 true }) (·.pc) =
      some 0x0204 := by decide

theorem test_ldKey :
    after 0xF00A (fun s => { s with keys := (s.keys.set 3 true).set 7 true })
      (fun t => (t.getV 0, t.pc)) = some (3, 0x0202) ∧
    after 0xF50A (withV [(5, 9)]) (fun t => (t.getV 5, t.pc)) = some (9, 0x0200) := by decide

theorem test_ldVxDt :
    after 0xF107 (fun s => { s with dt := 0x2A }) (fun t => (t.getV 1, t.dt)) =
      some (0x2A, 0x2A) := by decide

theorem test_ldDtVx :
    after 0xF115 (withV [(1, 0x3C)]) (fun t => (t.dt, t.st)) = some (0x3C, 0) := by decide

/-- Writing 0 emits no `SoundZero`. -/
theorem test_ldStVx :
    after 0xF118 (withV [(1, 0x3C)]) (fun t => (t.dt, t.st)) = some (0, 0x3C) ∧
    after 0xF118 (fun s => { s with st := 5 }) (fun t => (t.st, t.env.soundZeros)) =
      some (0, 0) := by decide

/-- P6b: the word and the `pc` of the step are recorded, and `pc` stays. -/
theorem test_unsupported :
    after 0x5121 (·.setPc 0x0202) (fun t => (t.pc, record t)) =
      some (0x0202, some (1, 0x5121, 0x0202)) := by decide

/-- What `view` sees after the one event `e`, from `prepare reset`. -/
def afterEvent {α : Type} (e : Event) (prepare : State → State) (view : State → α) : Option α :=
  match step { (prepare State.reset) with env := { Environment.initial with script := [e] } } with
  | .next t => some (view t)
  | _ => none

theorem test_fetchOutOfRange :
    afterEvent (.step 0) (fun s => { s with loaded := true, pc := 0x0FFF })
      (fun t => (t.pc, record t)) = some (0x0FFF, some (5, 0x0000, 0x0FFF)) := by decide

theorem test_timerTick :
    afterEvent .timerTick (fun s => { s with dt := 5, st := 1 })
      (fun t => (t.dt, t.st, t.env.soundZeros)) = some (4, 0, 1) ∧
    afterEvent .timerTick (fun s => { s with st := 2 })
      (fun t => (t.dt, t.st, t.env.soundZeros)) = some (0, 1, 0) := by decide

/-- Before `LoadDone` a step does nothing (95_test_vectors.md 2.9). -/
theorem test_gate :
    afterEvent (.step 0) id (fun t => (t.pc, record t)) = some (0x0200, none) := by decide

/-! ### Witnesses: states and operands that meet a statement's hypotheses together, at their boundaries -/

/-- A state about to run the word `w` at 0x200, from the prepared reset state. -/
def ready (w : Nat) (prepare : State → State) : State := (prepare State.reset).withFetchWord 16 w

/-- A state whose host issues `e` next. -/
def facing (e : Event) (prepare : State → State) : State :=
  { (prepare State.reset) with env := { Environment.initial with script := [e] } }

/-- A halted state. -/
def halted : State := (ready 0x5121 id).raise .unsupportedOpcode 0x5121

/-- All 16 registers at 0x11 upward, `I` at `a`. -/
def filled (a : Word) (s : State) : State :=
  { s with v := Vector.ofFn fun k : Fin 16 => BitVec.ofNat 8 (0x11 + k.val), i := a }

theorem witness_EncodeOfDecodeIsIdentity : decodeWord 0xFFFF = .error (.unsupported 0xFFFF) ∧
    decodeWord 0xDFFF = .ok (.drw 0xF 0xF 0xF) := ⟨rfl, rfl⟩

theorem witness_WordDecodesToTheRowItSelects :
    decodeWord 0xF065 = .ok (.loadRegs 0) ∧
    Instr.row (.loadRegs 0) ∈ opcodeMap ∧ (Instr.row (.loadRegs 0)).selects 0xFF65 = true :=
  ⟨rfl, by decide, by decide⟩

theorem witness_UnsupportedWordsAreExactlyThese :
    [0x0000, 0x5121, 0x9121, 0x8128, 0x812F, 0xE19F, 0xF030].all
      (fun w : Word => (decodeWord w).toOption.isNone) = true := by decide

/-- At `pc` = 0xFFE, the last place an instruction can stand. -/
theorem witness_StepRunsTheDecodedInstruction :
    let s := ready 0x6005 (·.setPc 0x0FFE)
    s.loaded = true ∧ s.fault = none ∧ s.pc.toNat ≤ 0xFFE ∧ s.pc = 0x0FFE ∧
      (decodeWord s.fetchWord).toOption = some (.ldImm 0 5) ∧ s.env.script = [] := by decide

theorem witness_StepRunsTheDecodedInstruction_named :
    let s := { ready 0x6005 id with env := { Environment.initial with script := [.step 7] } }
    s.loaded = true ∧ s.fault = none ∧ s.pc.toNat ≤ 0xFFE ∧
      (decodeWord s.fetchWord).toOption = some (.ldImm 0 5) ∧
      s.env.script = .step 7 :: [] := by decide

theorem witness_StepDoesNothingUnlessRunning :
    State.reset.loaded = false ∧ State.reset.env.script = [] ∧ halted.fault ≠ none ∧
      halted.env.script = [] ∧ (facing (.step 7) id).loaded = false ∧
      (facing (.step 7) id).env.script = .step 7 :: [] := by decide

theorem witness_FetchAndDecodeRaiseTheirFaults_fetch :
    let s := { State.reset with loaded := true, pc := 0x0FFF }
    s.loaded = true ∧ s.fault = none ∧ s.env.script = [] ∧ 0xFFE < s.pc.toNat := by decide

theorem witness_FetchAndDecodeRaiseTheirFaults_fetch_named :
    let s := facing (.step 7) (fun s => { s with loaded := true, pc := 0x0FFF })
    s.loaded = true ∧ s.fault = none ∧ s.env.script = .step 7 :: [] ∧ 0xFFE < s.pc.toNat := by decide

theorem witness_FetchAndDecodeRaiseTheirFaults_decode_named :
    let s := facing (.step 7) (fun _ => ready 0x812F (·.setPc 0x0FFE))
    s.loaded = true ∧ s.fault = none ∧ s.env.script = .step 7 :: [] ∧ s.pc.toNat ≤ 0xFFE ∧
      (decodeWord s.fetchWord).toOption = none := by decide

theorem witness_FetchAndDecodeRaiseTheirFaults_decode :
    let s := ready 0x812F (·.setPc 0x0FFE)
    s.loaded = true ∧ s.fault = none ∧ s.env.script = [] ∧ s.pc.toNat ≤ 0xFFE ∧
      (decodeWord s.fetchWord).toOption = none := by decide

theorem witness_ResetRestoresEverything :
    (facing .reset (fun _ => halted)).env.script = .reset :: [] := by decide

theorem witness_RomIsLoadedByteByByte :
    (facing (.romWrite 3583 0xAB) id).env.script = .romWrite 3583 0xAB :: [] ∧
      (facing (.romWrite 3583 0xAB) id).loaded = false ∧ 3583 < 3584 ∧
      (facing .loadDone id).env.script = .loadDone :: [] := by decide

theorem witness_RomIsLoadedByteByByte_order :
    MemoryCanonical State.reset ∧ State.reset.loaded = false ∧ 0 < 3584 ∧ 3583 < 3584 ∧ 0 ≠ 3583 :=
  ⟨rfl, rfl, by decide, by decide, by decide⟩

/-- An image of the greatest length. -/
theorem witness_LoadedProgramStartsAtItsFirstWord :
    let image : List Byte := 0x12 :: 0x00 :: List.replicate 3582 0
    let s := { halted with env := { Environment.initial with script := loadScript image ++ [] } }
    image.length ≤ 3584 ∧ s.env.script = loadScript image ++ [] := by
  refine ⟨Nat.le_of_eq ?_, rfl⟩
  rw [List.length_cons, List.length_cons, List.length_replicate]

theorem witness_TimerTickCountsDown :
    (facing .timerTick (fun s => { s with dt := 0, st := 1 })).env.script = .timerTick :: [] := by
  decide

/-- Three ticks, in which a sound timer of 3 runs out. -/
theorem witness_TicksRunTheTimersOut :
    let s := { State.reset with
      st := 3, dt := 255
      env := { Environment.initial with script := [.timerTick, .timerTick, .timerTick] } }
    s.env.script = List.replicate 3 .timerTick ++ [] ∧ 0 < s.st.toNat ∧ s.st.toNat ≤ 3 := by decide

theorem witness_SampleKeysAndFrameAckDoJustThat :
    (facing (.sampleKeys (Vector.replicate 16 true)) id).env.script =
      .sampleKeys (Vector.replicate 16 true) :: [] ∧
    (facing .frameAck (fun s => { s with dirty := true })).env.script = .frameAck :: [] := by decide

/-- The last call with room, and a return with one entry. -/
theorem witness_CallPushesAndReturnPops :
    ({ State.reset with stack := List.replicate 15 0x0202 } : State).sp < 16 ∧
    ({ State.reset with stack := [0x0206] } : State).stack = [] ++ [0x0206] := by decide

theorem witness_ReturnResumesAfterTheCall :
    State.reset.sp < 16 ∧
    ∃ t, exec (.call 0x300) State.reset = .next t ∧ (t.setPc 0x0ABC).stack = t.stack :=
  ⟨by decide, _, rfl, rfl⟩

/-- Key 15 pressed and named; key 7 not pressed; 0xFF names no key. -/
theorem witness_KeySkipsTestTheKey :
    let s := { withV [(1, 15), (2, 7), (3, 0xFF)] State.reset with
      keys := (Vector.replicate 16 false).set 15 true }
    (s.getV 1).toNat < 16 ∧ s.keys[15] = true ∧ (s.getV 2).toNat < 16 ∧ s.keys[7] = false ∧
      ¬(s.getV 3).toNat < 16 := by decide

theorem witness_RandomByteIsMasked :
    (State.reset.offerRandom 0xA7).env.rnd = some 0xA7 ∧ State.reset.env.rnd = none := by decide

/-- `x` not `F`, and another register than `x` and `F`, for the clauses on them. -/
theorem witness_AddAndSubtractSetTheirFlags :
    (1 : Reg) ≠ 0xF ∧ (2 : Reg) ≠ 1 ∧ (2 : Reg) ≠ 0xF ∧ (State.reset.setV 1 0xFF).getV 1 = 0xFF := by
  decide

theorem witness_ShiftsMoveTheBitOutIntoTheFlag :
    ((State.reset.setV 1 0x81).getV 1).toNat = 0x81 ∧ (1 : Reg) ≠ 0xF := by decide

/-- A flag writer that does not fault, and an instruction whose destination is `VF`. -/
theorem witness_FlagWritersLeaveZeroOrOne :
    (∃ t, exec (.addReg 1 2) State.reset = .next t) ∧ isFlagWriter (.addReg 1 2) ∧
    (∀ c, ¬Raises (.addReg 1 2) State.reset c) ∧
    ∃ t, exec (.ldImm 0xF 9) State.reset = .next t ∧ t.vf ≠ State.reset.vf :=
  ⟨⟨_, rfl⟩, .inl ⟨1, 2, rfl⟩, by intro c; cases c <;> simp [Raises, dataCount], _, rfl, by decide⟩

theorem witness_FlagWritersLeaveZeroOrOne_not : ¬isFlagWriter (.ldImm 0xF 9) := by
  simp [isFlagWriter]

/-- The last three bytes of memory. -/
theorem witness_DecimalDigitsAreStored : (State.reset.setI 0x0FFD).i.toNat + 2 ≤ 0xFFF := by decide

/-- All 16 registers into the last 16 bytes of memory. -/
theorem witness_RegistersAreStored :
    (State.reset.setI 0x0FF0).i.toNat + (0xF : Reg).toNat ≤ 0xFFF ∧
      (0xF : Reg).toNat ≤ (0xF : Reg).toNat := by decide

theorem witness_RegistersAreLoadedAndIndexAdvances :
    (State.reset.setI 0x0FFF).i.toNat + (0 : Reg).toNat ≤ 0xFFF ∧
      (0 : Reg).toNat < (0xF : Reg).toNat := by decide

theorem witness_LoadAfterStoreRestoresTheRegisters :
    (filled 0x0FF0 State.reset).i.toNat + (0xF : Reg).toNat ≤ 0xFFF ∧
    ∃ t, exec (.storeRegs 0xF) (filled 0x0FF0 State.reset) = .next t ∧
      ∃ u : State, u.mem = t.mem ∧ u.i = t.i ∧ u.v ≠ t.v :=
  ⟨by decide, _, rfl,
    { ((filled 0x0FF0 State.reset).storeData ((filled 0x0FF0 State.reset).regsUpTo 0xF)).advance with
      v := Vector.replicate 16 0 }, rfl, rfl, by decide⟩

/-- The next instruction may be the last two bytes of memory. -/
theorem witness_StoredCodeIsFetchedNext :
    let s := { State.reset with pc := 0x0FFC, i := 0x0FFE }
    1 ≤ (1 : Reg).toNat ∧ s.i.toNat = s.pc.toNat + 2 ∧ s.i.toNat + (1 : Reg).toNat ≤ 0xFFF := by
  decide

/-- `n` = 0 with `I` outside memory; a sprite that ends at 0xFFF; a sprite pixel on a lit pixel. -/
theorem witness_DrawInvertsTheSpritePixels :
    ((0 : Nibble) = 0 ∧ (State.reset.setI 0xFFFF).i = 0xFFFF) ∧
    (State.reset.setI 0x0FF1).i.toNat + (0xF : Nibble).toNat - 1 ≤ 0xFFF ∧
    (SpritePixel State.reset 0 0 5 0 ∧ pixelAt ({ State.reset with fb := 1 } : State).fb 0 = true) ∧
    pixelAt State.reset.fb 0 = false :=
  ⟨by decide, by decide, ⟨⟨0, 0, by decide, by decide, by decide, by decide⟩, by decide +kernel⟩,
    by decide +kernel⟩

/-- Glyph 0 drawn at `V0`, `V0`: the coordinates survive. -/
theorem witness_DrawingTwiceRestoresThePicture :
    State.reset.i.toNat + (5 : Nibble).toNat - 1 ≤ 0xFFF ∧
    ∃ t, exec (.drw 0 0 5) State.reset = .next t ∧ t.getV 0 = State.reset.getV 0 ∧
      ∃ k, SpritePixel State.reset 0 0 5 k ∧ pixelAt State.reset.fb k = false :=
  ⟨by decide, _, rfl, by decide +kernel, 0, ⟨0, 0, by decide, by decide, by decide, by decide⟩,
    by decide +kernel⟩

/-- Key 15 alone pressed; no key pressed. -/
theorem witness_KeyWaitTakesTheLowestKeyOrWaits :
    let keys : Vector Bool 16 := (Vector.replicate 16 false).set 15 true
    keys[15] = true ∧ (∀ j (hj : j < 15), keys[j] = false) ∧
      ∀ (k : Nat) (hk : k < 16), State.reset.keys[k] = false :=
  ⟨by decide, by decide, by decide⟩

/-- Each cause an instruction can raise, at the edge of its condition, and an instruction that raises none. -/
theorem witness_InstructionsRaiseExactlyTheseFaults :
    Raises .ret State.reset .stackUnderflow ∧
    Raises (.call 0x300) { State.reset with stack := List.replicate 16 0x0202 } .stackOverflow ∧
    Raises (.ldB 0) (State.reset.setI 0x0FFE) .addressOutOfRange ∧
    Raises (.drw 0 0 1) (State.reset.setI 0x1000) .addressOutOfRange ∧
    ∀ c, ¬Raises (.drw 0 0 0) (State.reset.setI 0xFFFF) c :=
  ⟨⟨rfl, rfl⟩, ⟨⟨_, rfl⟩, by decide⟩, ⟨by decide, by decide⟩, ⟨by decide, by decide⟩,
    by intro c; cases c <;> simp [Raises, dataCount]⟩

theorem witness_HaltLastsUntilReset :
    halted.loaded = true ∧ halted.fault = some ⟨.unsupportedOpcode, 0x5121, 0x0200⟩ ∧
    (∀ es, halted.env.script ≠ .reset :: es) ∧ step halted = .next halted :=
  ⟨by decide, by decide, (by intro es h; cases h), rfl⟩

/-- Both stops of the second case. -/
theorem witness_OnlyAnUnofferedRomWriteStops :
    (facing (.romWrite 0 1) (fun s => { s with loaded := true })).loaded = true ∧
    (facing (.romWrite 3584 1) id).loaded = false ∧ 3584 ≤ 3584 := by decide

/-- A store, an instruction that writes no memory, and one that faults. -/
theorem witness_FrameFollowsTheAccessTable :
    (∃ t, exec (.storeRegs 0xF) (filled 0x0FF0 State.reset) = .next t) ∧
    (∃ t, exec (.ldImm 1 9) State.reset = .next t ∧ writesV (.ldImm 1 9) 2 = false) ∧
    ∃ t, exec .ret State.reset = .next t := ⟨⟨_, rfl⟩, ⟨_, rfl, by decide⟩, _, rfl⟩

theorem witness_PcAdvancesByTwo :
    (∃ t, exec .ret State.reset = .next t ∧ Raises .ret State.reset .stackUnderflow) ∧
    ((∃ t, exec (.skp 0) State.reset = .next t) ∧ isSkip (.skp 0) ∧ ¬isTransfer (.skp 0) ∧
      ∀ c, ¬Raises (.skp 0) State.reset c) ∧
    (∃ t, exec (.ldKey 0) State.reset = .next t) ∧ ¬isSkip (.ldI 0) ∧ ¬isTransfer (.ldI 0) :=
  ⟨⟨_, rfl, rfl, rfl⟩,
    ⟨⟨_, rfl⟩, by simp [isSkip], by simp [isTransfer], by intro c; cases c <;> simp [Raises, dataCount]⟩,
    ⟨_, rfl⟩, by simp [isSkip], by simp [isTransfer]⟩

/-- The gate set by `LoadDone`, cleared by `Reset`, closed before. -/
theorem witness_LoadedGateIsOneWay :
    (∃ t, step (facing .loadDone id) = .next t ∧ (facing .loadDone id).loaded = false ∧
      t.loaded = true) ∧
    (∃ t, step (facing .reset (fun _ => halted)) = .next t ∧
      (facing .reset (fun _ => halted)).loaded = true ∧ t.loaded = false) ∧
    (State.reset.loaded = false ∧ State.reset.env.script = []) ∧
    (facing (.step 7) id).loaded = false ∧ (facing (.step 7) id).env.script = .step 7 :: [] :=
  ⟨⟨_, rfl, by decide, by decide⟩, ⟨_, rfl, by decide, by decide⟩, by decide, by decide⟩

theorem witness_KeysChangeOnlyWhenSampled :
    (∃ t, step (facing (.sampleKeys (Vector.replicate 16 true)) id) = .next t) ∧
    (∃ t, step (facing .timerTick id) = .next t) ∧
    ∀ x, Instr.cls ≠ .skp x ∧ Instr.cls ≠ .sknp x ∧ Instr.cls ≠ .ldKey x :=
  ⟨⟨_, rfl⟩, ⟨_, rfl⟩, by simp⟩

/-- A tick, a write by `Fx15`, and a reset that move the delay timer. -/
theorem witness_DelayTimerMovesOnlyByTickAndWrite :
    (∃ t, step (facing .timerTick (fun s => { s with dt := 1 })) = .next t ∧ t.dt ≠ 1) ∧
    (∃ t, step (ready 0xF115 (withV [(1, 0x3C)])) = .next t ∧
      t.dt ≠ (ready 0xF115 (withV [(1, 0x3C)])).dt) ∧
    (∃ t, step (facing .reset (fun s => { s with dt := 1 })) = .next t ∧ t.dt ≠ 1) ∧
    (∀ x, Instr.cls ≠ .ldVxDt x) ∧ ∀ x, Instr.cls ≠ .ldDtVx x :=
  ⟨⟨_, rfl, by decide⟩, ⟨_, rfl, by decide⟩, ⟨_, rfl, by decide⟩, by simp, by simp⟩

theorem witness_SoundTimerIsNeverRead :
    (∀ x, Instr.ldVxDt 0 ≠ .ldStVx x) ∧ Instr.ldStVx 3 = .ldStVx 3 := by simp

theorem witness_PixelsAreSeenOnlyByDraw :
    (∀ x y n, Instr.ldB 0 ≠ .drw x y n) ∧ Instr.ldB 0 ≠ .cls ∧ ∀ x y n, Instr.cls ≠ .drw x y n := by
  simp

theorem witness_StackIsSeenOnlyByCallAndReturn : ¬writesStack (.jp 0x300) := by simp [writesStack]

theorem witness_RandomByteIsSeenOnlyByRandomLoad : ∀ x kk, Instr.ldImm 0 5 ≠ .rnd x kk := by simp

/-- `dirty` set by a draw, and cleared by an acknowledgement. -/
theorem witness_DirtyIsSetByDrawAndClearedByTheHost :
    (∃ t, step (ready 0xD000 id) = .next t ∧ (ready 0xD000 id).dirty = false ∧ t.dirty = true) ∧
    ∃ t, step (facing .frameAck (fun s => { s with dirty := true })) = .next t ∧ t.dirty = false :=
  ⟨⟨_, rfl, by decide, rfl⟩, _, rfl, by decide⟩

/-- A memory that lists an entry, and one step that adds to it. -/
theorem witness_StepKeepsMemoryCanonical :
    MemoryCanonical (ready 0xF055 (filled 0x0FFF)) ∧
    ∃ t, step (ready 0xF055 (filled 0x0FFF)) = .next t ∧ t.mem.read 0xFFF = 0x11 :=
  ⟨by unfold MemoryCanonical; decide, _, rfl, by decide⟩

/-- A stack of 15 entries and a call. -/
theorem witness_StepKeepsStackBounded :
    let s := ready 0x2300 (fun s => { s with stack := List.replicate 15 0x0202 })
    StackBounded s ∧ ∃ t, step s = .next t ∧ t.sp = 16 :=
  ⟨by unfold StackBounded; decide, _, rfl, by decide⟩

/-- The invariant at a state with a latched record, which steps. -/
theorem witness_StepKeepsFaultExplained :
    FaultExplained halted ∧ halted.fault ≠ none ∧ step halted = .next halted := by
  refine ⟨?_, by decide, rfl⟩
  intro f hf
  cases hf
  exact ⟨by decide, by decide, by decide, by decide, rfl⟩

/-- The reference tick of the host (R231) is sample, steps, acknowledge, tick. -/
theorem test_referenceTick_shape :
    (referenceTick (Vector.replicate 16 false) (Vector.replicate 4 0)).length = 7 := by decide

end Sys2Proof.Tests
end

section
/-! SUPPORT. The loaded gate and the key table (10_state.md R28, R30): which instructions use them, and
which host events change them. The first two parts speak of any update `f` and any field `g` of the
state; only an instruction that branches on the state needs an argument for `f` there. -/

namespace Sys2Proof.Machine

/-- `Fx0A` writes a register and advances, or changes nothing (R192). -/
theorem execLdKey_cases (x : Reg) (s : State) :
    (∃ k, s.scanKeys = some k ∧ execLdKey x s = .next (s.setV x (BitVec.ofNat 8 k)).advance) ∨
      (s.scanKeys = none ∧ execLdKey x s = .next s) := by
  cases h : s.scanKeys with
  | some k => exact .inl ⟨k, rfl, by rw [execLdKey, h]⟩
  | none => exact .inr ⟨rfl, by rw [execLdKey, h]⟩

/-! ### An update `f` of the state commutes with an operation that branches -/

section Commutes

variable (f : State → State) (s : State)

theorem withData_commutes (instr : Instr) {effect : State → State} (hi : (f s).i = s.i := by rfl)
    (hraise : ∀ c w, (f s).raise c w = f (s.raise c w) := by intros; rfl)
    (heffect : effect (f s) = f (effect s) := by rfl) :
    withData instr (f s) effect = onNext f (withData instr s effect) := by
  have hrange : (f s).dataInRange (dataCount instr) = s.dataInRange (dataCount instr) := by
    rw [State.dataInRange, State.dataInRange, hi]
  by_cases h : s.dataInRange (dataCount instr) = true
  · rw [withData_inRange effect h, withData_inRange effect (hrange.trans h), heffect, onNext]
  · simp only [withData, hrange, if_neg h, hraise, onNext]

theorem execRet_commutes (hstack : (f s).stack = s.stack := by rfl)
    (hraise : ∀ c w, (f s).raise c w = f (s.raise c w) := by intros; rfl)
    (hpop : ∀ st w, State.setPc { f s with stack := st } w =
      f (State.setPc { s with stack := st } w) := by intros; rfl) :
    execRet (f s) = onNext f (execRet s) := by
  cases hs : s.pop with
  | none =>
    have h : s.stack = [] := State.pop_eq_none hs
    have hf : (f s).pop = none := State.pop_of_empty _ (hstack.trans h)
    simp only [execRet, hs, hf, Param.underflowPolicy, hraise, onNext]
  | some p =>
    obtain ⟨w, t⟩ := p
    obtain ⟨h, ht⟩ := State.pop_eq_some hs
    have hf : (f s).pop = some (w, { f s with stack := t.stack }) :=
      State.pop_of_concat _ _ _ (hstack.trans h)
    simp only [execRet, hs, hf, hpop, onNext]
    rw [← ht]

theorem execCall_commutes (nnn : Addr) (hstack : (f s).stack = s.stack := by rfl)
    (hpc : (f s).pc = s.pc := by rfl)
    (hraise : ∀ c w, (f s).raise c w = f (s.raise c w) := by intros; rfl)
    (hpush : ∀ st w, State.setPc { f s with stack := st } w =
      f (State.setPc { s with stack := st } w) := by intros; rfl) :
    execCall nnn (f s) = onNext f (execCall nnn s) := by
  have hnext : (f s).next = s.next := by rw [State.next, State.next, hpc]
  have hsp : (f s).sp = s.sp := by rw [State.sp, State.sp, hstack]
  by_cases h : s.sp < 16
  · have hf : (f s).push s.next = some { f s with stack := s.stack ++ [s.next] } := by
      rw [State.push_of_room _ _ (hsp ▸ h), hstack]
    simp only [execCall, hnext, hf, State.push_of_room _ _ h, hpush, onNext]
  · have h' : 16 ≤ s.sp := Nat.not_lt.mp h
    have hf : (f s).push s.next = none := State.push_of_full _ _ (hsp ▸ h')
    simp only [execCall, hnext, hf, State.push_of_full _ _ h', hraise, onNext]

theorem execLdKey_commutes (x : Reg) (hkeys : (f s).keys = s.keys := by rfl)
    (hset : ∀ b, ((f s).setV x b).advance = f (s.setV x b).advance := by intros; rfl) :
    execLdKey x (f s) = onNext f (execLdKey x s) := by
  have hscan : (f s).scanKeys = s.scanKeys := by
    have : (f s).pressed = s.pressed := funext fun k => by simp only [State.pressed, hkeys]
    rw [State.scanKeys, State.scanKeys, this]
  cases h : s.scanKeys with
  | some k => simp only [execLdKey, hscan, h, hset, onNext]
  | none => simp only [execLdKey, hscan, h, onNext]

/-- An update that changes nothing before an instruction it commutes with changes nothing after it. -/
theorem fixed_of_commutes {i : Instr} {t : State} (hcomm : exec i (f s) = onNext f (exec i s))
    (hfix : f s = s) (h : exec i s = .next t) : f t = t := by
  rw [hfix, h, onNext] at hcomm
  injection hcomm with ht
  exact ht.symm

end Commutes

/-! ### A step keeps a field `g` that no instruction changes -/

section Keeps

variable {α : Type} {g : State → α} {s t : State}

/-- A field that every instruction keeps, and every raised fault, is kept by `Step`. -/
theorem stepInstr_keeps (hraise : ∀ (s : State) c w, g (s.raise c w) = g s)
    (hexec : ∀ {i s t}, exec i s = .next t → g t = g s) (h : stepInstr s = .next t) : g t = g s := by
  obtain ⟨-, e⟩ | ⟨-, -, ⟨-, e⟩ | ⟨-, -, e⟩ | ⟨-, i, -, e⟩⟩ := stepInstr_cases s
  · cases e.symm.trans h; rfl
  · cases e.symm.trans h; exact hraise ..
  · cases e.symm.trans h; exact hraise ..
  · exact hexec (e.symm.trans h)

/-- While the gate is closed `Step` changes nothing (R230). -/
theorem stepInstr_of_not_loaded (h : s.loaded = false) : stepInstr s = .next s := by
  rw [stepInstr, if_pos h]

/-- The interface offers a `RomWrite` only while the gate is closed (R229). -/
theorem performEvent_romWrite {j : Nat} {b : Byte} (h : performEvent (.romWrite j b) s = .next t) :
    s.loaded = false ∧ j < 3584 ∧ t = s.romWrite j b := by
  rw [performEvent] at h
  split at h
  · cases h
  · next hl =>
    split at h
    · next hj => cases h; exact ⟨Bool.eq_false_iff.mpr hl, of_decide_eq_true hj, rfl⟩
    · cases h

/-- A field of the Machine that every instruction keeps, and every raised fault, is kept by a step that
performs no other event than `Step`. -/
theorem step_keeps (hraise : ∀ (s : State) c w, g (s.raise c w) = g s)
    (hexec : ∀ {i s t}, exec i s = .next t → g t = g s)
    (henv : ∀ (s : State) env, g { s with env := env } = g s) (h : step s = .next t) :
    g t = g s ∨ ∃ e es, s.env.script = e :: es ∧ (∀ r, e ≠ .step r) ∧
      performEvent e (s.takeEvent es) = .next t := by
  cases hs : s.env.script with
  | nil => exact .inl (stepInstr_keeps hraise hexec (step_of_no_event hs ▸ h))
  | cons e es =>
    rw [step_of_event hs] at h
    by_cases he : ∃ r, e = .step r
    · obtain ⟨r, rfl⟩ := he
      obtain ⟨u, hu, rfl⟩ := onNext_eq_next.mp h
      left
      calc
        g u.dropRandom = g u := henv u _
        _ = g ((s.takeEvent es).offerRandom r) := stepInstr_keeps hraise hexec hu
        _ = g s := henv s _
    · exact .inr ⟨e, es, rfl, fun r hr => he ⟨r, hr⟩, h⟩

end Keeps

/-! ### The loaded gate (R30) -/

/-- The update whose commuting says that the gate is not used. -/
def State.withLoaded (s : State) (b : Bool) : State := { s with loaded := b }

/-- No instruction reads or writes the gate. -/
theorem exec_withLoaded (i : Instr) (s : State) (b : Bool) :
    exec i (s.withLoaded b) = onNext (·.withLoaded b) (exec i s) := by
  cases i with
  | ret => exact execRet_commutes (·.withLoaded b) s
  | call nnn => exact execCall_commutes (·.withLoaded b) s nnn
  | drw _ _ _ => simp only [exec, execDrw]; exact withData_commutes (·.withLoaded b) s _
  | ldB _ => simp only [exec, execLdB]; exact withData_commutes (·.withLoaded b) s _
  | storeRegs _ => simp only [exec, execStoreRegs]; exact withData_commutes (·.withLoaded b) s _
  | loadRegs _ => simp only [exec, execLoadRegs]; exact withData_commutes (·.withLoaded b) s _
  | ldKey x => exact execLdKey_commutes (·.withLoaded b) s x
  | _ => rfl

theorem exec_loaded {i : Instr} {s t : State} (h : exec i s = .next t) : t.loaded = s.loaded := by
  have hfixed : t.withLoaded s.loaded = t :=
    fixed_of_commutes (·.withLoaded s.loaded) s (exec_withLoaded i s _) rfl h
  exact (congrArg State.loaded hfixed).symm

/-- `LoadDone` opens the gate, `Reset` closes it, and every other step keeps it. -/
theorem step_loaded {s t : State} (h : step s = .next t) :
    t.loaded = s.loaded ∨ ((∃ es, s.env.script = .loadDone :: es) ∧ t.loaded = true) ∨
      ((∃ es, s.env.script = .reset :: es) ∧ t.loaded = false) := by
  obtain hkept | ⟨e, es, hs, hne, h⟩ := step_keeps State.raise_loaded exec_loaded (fun _ _ => rfl) h
  · exact .inl hkept
  cases e with
  | loadDone => cases h; exact .inr (.inl ⟨⟨es, hs⟩, rfl⟩)
  | reset => cases h; exact .inr (.inr ⟨⟨es, hs⟩, rfl⟩)
  | romWrite j b =>
    obtain ⟨-, -, rfl⟩ := performEvent_romWrite h
    exact .inl rfl
  | step r => exact absurd rfl (hne r)
  | _ => cases h; exact .inl rfl

/-! ### The key table (R28) -/

/-- The update whose commuting says that the keys are not used. -/
def State.withKeys (s : State) (keys : Vector Bool 16) : State := { s with keys := keys }

/-- Only `Ex9E`, `ExA1` and `Fx0A` read the keys. -/
theorem exec_withKeys {i : Instr} (s : State) (keys : Vector Bool 16)
    (hi : ∀ x, i ≠ .skp x ∧ i ≠ .sknp x ∧ i ≠ .ldKey x) :
    exec i (s.withKeys keys) = onNext (·.withKeys keys) (exec i s) := by
  cases i with
  | ret => exact execRet_commutes (·.withKeys keys) s
  | call nnn => exact execCall_commutes (·.withKeys keys) s nnn
  | drw _ _ _ => simp only [exec, execDrw]; exact withData_commutes (·.withKeys keys) s _
  | ldB _ => simp only [exec, execLdB]; exact withData_commutes (·.withKeys keys) s _
  | storeRegs _ => simp only [exec, execStoreRegs]; exact withData_commutes (·.withKeys keys) s _
  | loadRegs _ => simp only [exec, execLoadRegs]; exact withData_commutes (·.withKeys keys) s _
  | skp x => exact absurd rfl (hi x).1
  | sknp x => exact absurd rfl (hi x).2.1
  | ldKey x => exact absurd rfl (hi x).2.2
  | _ => rfl

/-- No instruction writes the keys: not the three that read them, and no other. -/
theorem exec_keys {i : Instr} {s t : State} (h : exec i s = .next t) : t.keys = s.keys := by
  cases i with
  | skp x => cases h; rfl
  | sknp x => cases h; rfl
  | ldKey x =>
    obtain ⟨k, -, e⟩ | ⟨-, e⟩ := execLdKey_cases x s
    · cases e.symm.trans h; rfl
    · cases e.symm.trans h; rfl
  | _ =>
    have hfixed : t.withKeys s.keys = t :=
      fixed_of_commutes (·.withKeys s.keys) s (exec_withKeys s _ (by simp)) rfl h
    exact (congrArg State.keys hfixed).symm

/-- `SampleKeys` and `Reset` may change the keys, and every other step keeps them. -/
theorem step_keys {s t : State} (h : step s = .next t) :
    t.keys = s.keys ∨ (∃ keys es, s.env.script = .sampleKeys keys :: es) ∨
      ∃ es, s.env.script = .reset :: es := by
  obtain hkept | ⟨e, es, hs, hne, h⟩ := step_keeps State.raise_keys exec_keys (fun _ _ => rfl) h
  · exact .inl hkept
  cases e with
  | sampleKeys keys => exact .inr (.inl ⟨keys, es, hs⟩)
  | reset => exact .inr (.inr ⟨es, hs⟩)
  | romWrite j b =>
    obtain ⟨-, -, rfl⟩ := performEvent_romWrite h
    exact .inl rfl
  | step r => exact absurd rfl (hne r)
  | _ => cases h; exact .inl rfl

theorem step_of_sampleKeys {s : State} {keys : Vector Bool 16} {es : List Event}
    (h : s.env.script = .sampleKeys keys :: es) :
    step s = .next { s.takeEvent es with keys := keys } := by
  rw [step_of_event h, performEvent]

/-! ### The obligations -/

/-- Settles O46: the gate's cases of a step, the closed gate of `stepInstr`, and an instruction's
indifference to the gate. -/
theorem loadedGateIsOneWay : Obligations.LoadedGateIsOneWay := by
  refine ⟨fun s t h => ?_, fun s hl => ⟨fun hs => ?_, fun r es hs => ?_⟩, exec_withLoaded⟩
  · obtain hkept | ⟨hes, hopen⟩ | ⟨hes, hclosed⟩ := step_loaded h
    · exact ⟨fun h0 h1 => absurd (hkept.symm.trans h1) (h0 ▸ Bool.false_ne_true),
        fun h1 h0 => absurd (h0.symm.trans (hkept.trans h1)) Bool.false_ne_true⟩
    · exact ⟨fun _ _ => hes, fun _ h0 => absurd (h0.symm.trans hopen) Bool.false_ne_true⟩
    · exact ⟨fun _ h1 => absurd (hclosed.symm.trans h1) Bool.false_ne_true, fun _ _ => hes⟩
  · rw [step_of_no_event hs, stepInstr_of_not_loaded hl]
  · have hl' : ((s.takeEvent es).offerRandom r).loaded = false := hl
    rw [step_of_event hs, performEvent, stepInstr_of_not_loaded hl']
    rfl

/-- Settles O47: the keys' cases of a step, and an instruction's indifference to them. -/
theorem keysChangeOnlyWhenSampled : Obligations.KeysChangeOnlyWhenSampled := by
  refine ⟨fun s t h => ⟨fun keys es hs => ?_, fun hsample hreset => ?_⟩,
    fun _ s keys hi => exec_withKeys s keys hi⟩
  · cases (step_of_sampleKeys hs).symm.trans h
    rfl
  · obtain hkept | ⟨keys, es, hs⟩ | ⟨es, hs⟩ := step_keys h
    · exact hkept
    · exact absurd hs (hsample keys es)
    · exact absurd hs (hreset es)

end Sys2Proof.Machine
end

section
/-! SUPPORT. The value and the two halves of a word assembled from two bytes, and the word fetched
(20_memory.md R54). -/

namespace Sys2Proof.Machine

/-- R10's pair of bytes as a number: the first byte counts 256. -/
theorem wordOfBytes_toNat (hi lo : Byte) : (wordOfBytes hi lo).toNat = hi.toNat * 256 + lo.toNat :=
  calc (wordOfBytes hi lo).toNat
    _ = hi.toNat <<< 8 ||| lo.toNat := BitVec.toNat_append hi lo
    _ = hi.toNat <<< 8 + lo.toNat := (Nat.shiftLeft_add_eq_or_of_lt lo.isLt _).symm
    _ = hi.toNat * 256 + lo.toNat := by rw [Nat.shiftLeft_eq]

theorem wordOfBytes_high (hi lo : Byte) : (wordOfBytes hi lo).extractLsb' 8 8 = hi :=
  bits_append_high hi lo

theorem fieldKK_wordOfBytes (hi lo : Byte) : fieldKK (wordOfBytes hi lo) = lo :=
  bits_append_low hi lo

/-- Settles O7: the fetched word is `wordOfBytes` of the two bytes at `pc`. -/
theorem fetchIsBigEndian : Obligations.FetchIsBigEndian :=
  fun _ => ⟨wordOfBytes_toNat _ _, wordOfBytes_high _ _, fieldKK_wordOfBytes _ _⟩

end Sys2Proof.Machine
end

section
/-! SUPPORT. What the two jumps do (40_control_transfer.md R101, R103): the target as a number, `pc` the
only component they write, and when the target still has two bytes in memory (R58). -/

namespace Sys2Proof.Machine

@[simp] theorem zextAddr_toNat (nnn : Addr) : (zextAddr nnn).toNat = nnn.toNat :=
  BitVec.toNat_setWidth_of_le (by decide)

@[simp] theorem zextByte_toNat (b : Byte) : (zextByte b).toNat = b.toNat :=
  BitVec.toNat_setWidth_of_le (by decide)

/-- R103: the sum is at most 0x10FE, so the addition of words does not wrap. -/
theorem zextAddr_add_zextByte_toNat (nnn : Addr) (b : Byte) :
    (zextAddr nnn + zextByte b).toNat = nnn.toNat + b.toNat := by
  have hsum : (zextAddr nnn).toNat + (zextByte b).toNat < 2 ^ 16 := by
    have haddr : nnn.toNat < 0x1000 := nnn.isLt
    have hbyte : b.toNat < 0x100 := b.isLt
    rw [zextAddr_toNat, zextByte_toNat]
    omega
  rw [BitVec.toNat_add_of_lt hsum, zextAddr_toNat, zextByte_toNat]

theorem State.canFetch_eq_false_iff (s : State) : s.canFetch = false ↔ 0xFFE < s.pc.toNat := by
  rw [State.canFetch, decide_eq_false_iff_not, Nat.not_le]

/-- The only 12-bit address whose word would end above memory is the last one. -/
theorem addr_above_lastFetch_iff (nnn : Addr) : 0xFFE < nnn.toNat ↔ nnn = 0xFFF := by
  have hlt : nnn.toNat < 0x1000 := nnn.isLt
  have hlast : (0xFFF : Addr).toNat = 0xFFF := rfl
  rw [← BitVec.toNat_inj, hlast]
  omega

/-- R101: `JP` is the write of `pc` alone. -/
theorem exec_jp (nnn : Addr) (s : State) : exec (.jp nnn) s = .next (s.setPc (zextAddr nnn)) := rfl

/-- R103: `JP V0` is the write of `pc` alone. -/
theorem exec_jpV0 (nnn : Addr) (s : State) :
    exec (.jpV0 nnn) s = .next (s.setPc (zextAddr nnn + zextByte (s.getV 0))) := rfl

/-- Settles O18: each jump is `setPc` of its target, whose value is the unmasked one. -/
theorem jumpsGoToTheirTargets : Obligations.JumpsGoToTheirTargets := by
  intro nnn s
  have hjp : (s.setPc (zextAddr nnn)).pc.toNat = nnn.toNat := zextAddr_toNat nnn
  have hjpV0 : (s.setPc (zextAddr nnn + zextByte (s.getV 0))).pc.toNat =
      nnn.toNat + (s.getV 0).toNat := zextAddr_add_zextByte_toNat nnn (s.getV 0)
  refine ⟨⟨_, exec_jp nnn s, rfl, hjp, ?_⟩, _, exec_jpV0 nnn s, rfl, hjpV0, ?_⟩
  · rw [State.canFetch_eq_false_iff, hjp, addr_above_lastFetch_iff]
  · rw [State.canFetch_eq_false_iff, hjpV0]

end Sys2Proof.Machine
end

section
/-! SUPPORT. The register skips (41_conditional_skip.md R121 to R124): each is a conditional skip, which
writes `pc` alone. -/

namespace Sys2Proof.Machine

/-- R120: a skip on a test of the proposition `p` writes `pc` alone, 4 further if `p` holds, else 2. -/
theorem State.skipIf_of_iff (s : State) {test : Bool} {p : Prop} [Decidable p] (h : test = true ↔ p) :
    s.skipIf test = { s with pc := if p then s.pc + 4#16 else s.pc + 2#16 } := by
  have hpc : (if test then s.skip else s.next) = if p then s.skip else s.next :=
    ite_congr (propext h) (fun _ => rfl) fun _ => rfl
  exact congrArg s.setPc hpc

theorem exec_seImm (x : Reg) (kk : Byte) (s : State) :
    exec (.seImm x kk) s = .next (s.skipIf (s.getV x == kk)) := rfl

theorem exec_sneImm (x : Reg) (kk : Byte) (s : State) :
    exec (.sneImm x kk) s = .next (s.skipIf (s.getV x != kk)) := rfl

theorem exec_seReg (x y : Reg) (s : State) :
    exec (.seReg x y) s = .next (s.skipIf (s.getV x == s.getV y)) := rfl

theorem exec_sneReg (x y : Reg) (s : State) :
    exec (.sneReg x y) s = .next (s.skipIf (s.getV x != s.getV y)) := rfl

/-- Settles O21: each skip is `skipIf` of its test, and the test is the equality or its negation. -/
theorem registerSkipsTestEquality : Obligations.RegisterSkipsTestEquality := by
  intro x y kk s
  refine ⟨?_, ?_, ?_, ?_⟩
  · rw [exec_seImm, s.skipIf_of_iff beq_iff_eq]
  · rw [exec_sneImm, s.skipIf_of_iff bne_iff_ne]
  · rw [exec_seReg, s.skipIf_of_iff beq_iff_eq]
  · rw [exec_sneReg, s.skipIf_of_iff bne_iff_ne]

end Sys2Proof.Machine
end

section
/-! SUPPORT. The immediate load and add (42_immediate.md R130, R131): each writes one byte to `V[x]` and
advances. -/

namespace Sys2Proof.Machine

theorem exec_ldImm (x : Reg) (kk : Byte) (s : State) :
    exec (.ldImm x kk) s = .next (s.setV x kk).advance := rfl

theorem exec_addImm (x : Reg) (kk : Byte) (s : State) :
    exec (.addImm x kk) s = .next (s.setV x (s.getV x + kk)).advance := rfl

/-- R22: a register write followed by the advance touches `v` and `pc` alone. -/
theorem State.advance_setV (s : State) (x : Reg) (b : Byte) :
    (s.setV x b).advance = { s with v := (s.setV x b).advance.v, pc := s.pc + 2#16 } := rfl

theorem State.getV_advance_setV_self (s : State) (x : Reg) (b : Byte) :
    (s.setV x b).advance.getV x = b := by simp

theorem State.getV_advance_setV_of_ne (s : State) {x j : Reg} (b : Byte) (h : j ≠ x) :
    (s.setV x b).advance.getV j = s.getV j := by simp [h]

/-- Settles O23: both instructions are a write of `V[x]` and the advance, and the sum of two bytes is
taken modulo 256. -/
theorem immediatesAreLoadedAndAdded : Obligations.ImmediatesAreLoadedAndAdded := by
  intro x kk s
  constructor
  · exact ⟨_, exec_ldImm x kk s, s.advance_setV x kk, s.getV_advance_setV_self x kk,
      fun _ => s.getV_advance_setV_of_ne kk⟩
  · have hsum : (s.getV x + kk).toNat = ((s.getV x).toNat + kk.toNat) % 256 := BitVec.toNat_add ..
    refine ⟨_, exec_addImm x kk s, s.advance_setV x _, ?_, fun _ => s.getV_advance_setV_of_ne _⟩
    rw [s.getV_advance_setV_self, hsum]

end Sys2Proof.Machine
end

section
/-! SUPPORT. The loads of the index register (44_index_memory.md R161, R163): each writes `I` and
advances, and neither value needs a reduction to fit a word. -/

namespace Sys2Proof.Machine

theorem exec_ldI (nnn : Addr) (s : State) :
    exec (.ldI nnn) s = .next (s.setI (zextAddr nnn)).advance := rfl

theorem exec_ldF (x : Reg) (s : State) :
    exec (.ldF x) s = .next (s.setI (zextByte (s.getV x) * 5#16)).advance := rfl

/-- R22: a write of `I` followed by the advance touches `i` and `pc` alone. -/
theorem State.advance_setI (s : State) (w : Word) :
    (s.setI w).advance = { s with i := (s.setI w).advance.i, pc := s.pc + 2#16 } := rfl

theorem State.advance_setI_i (s : State) (w : Word) : (s.setI w).advance.i = w := by simp

/-- R163: five times a byte is at most 0x4FB, so the product of words does not wrap. -/
theorem zextByte_mul_five_toNat (b : Byte) : (zextByte b * 5#16).toNat = b.toNat * 5 := by
  have hfive : (5#16).toNat = 5 := rfl
  have hprod : (zextByte b).toNat * (5#16).toNat < 2 ^ 16 := by
    have hbyte : b.toNat < 0x100 := b.isLt
    rw [zextByte_toNat, hfive]
    omega
  rw [BitVec.toNat_mul_of_lt hprod, zextByte_toNat, hfive]

/-- Settles O29: both instructions are a write of `I` and the advance, and the value written is the
address, or five times the whole byte. -/
theorem indexIsLoadedAndPointed : Obligations.IndexIsLoadedAndPointed := by
  intro nnn x s
  constructor
  · refine ⟨_, exec_ldI nnn s, s.advance_setI _, ?_⟩
    rw [s.advance_setI_i, zextAddr_toNat]
  · refine ⟨_, exec_ldF x s, s.advance_setI _, ?_⟩
    rw [s.advance_setI_i, zextByte_mul_five_toNat]

end Sys2Proof.Machine
end

section
/-! SUPPORT. The loading of a program (60_exceptions.md R229): what `RomWrite` and `LoadDone` leave, and that
stores at different addresses commute. -/

namespace Sys2Proof.Machine

/-- Stores at different addresses commute as data: both orders keep the canonical form and read alike. -/
theorem Memory.write_comm {m : Memory} (h : m.wf) {a a' : Nat} (ha : a < Config.memSize)
    (ha' : a' < Config.memSize) (hne : a ≠ a') (b c : Byte) :
    (m.write a b).write a' c = (m.write a' c).write a b := by
  refine Memory.eq_of_read (Memory.wf_write (Memory.wf_write h ha b) ha' c)
    (Memory.wf_write (Memory.wf_write h ha' c) ha b) fun d => ?_
  rw [Memory.read_write, Memory.read_write, Memory.read_write, Memory.read_write]
  by_cases hd : d = a
  · have hd' : d ≠ a' := fun h' => hne (hd.symm.trans h')
    rw [if_neg hd', if_pos hd, if_pos hd]
  · rw [if_neg hd, if_neg hd]

/-- The program area ends where memory does (R51, R53). -/
theorem progBase_add_lt_memSize {j : Nat} (hj : j < 3584) : Config.progBase + j < Config.memSize :=
  Nat.add_lt_add_left hj 0x200

theorem State.romWrite_comm {s : State} (h : MemoryCanonical s) {j k : Nat} (hj : j < 3584)
    (hk : k < 3584) (hne : j ≠ k) (b c : Byte) :
    (s.romWrite j b).romWrite k c = (s.romWrite k c).romWrite j b := by
  have hmem := Memory.write_comm h (progBase_add_lt_memSize hj) (progBase_add_lt_memSize hk)
    (mt Nat.add_left_cancel hne) b c
  exact congrArg (fun m => { s with mem := m }) hmem

theorem performEvent_romWrite_of_offered {s : State} {j : Nat} (hl : s.loaded = false) (hj : j < 3584)
    (b : Byte) : performEvent (.romWrite j b) s = .next (s.romWrite j b) := by
  have hoffset : romOffsetWellFormed j = true := decide_eq_true hj
  rw [performEvent, hl, if_neg Bool.false_ne_true, if_pos hoffset]

/-- An offered `RomWrite` is taken from the script and stores its byte (R229). -/
theorem step_of_romWrite {s : State} {j : Nat} {b : Byte} {es : List Event}
    (h : s.env.script = .romWrite j b :: es) (hl : s.loaded = false) (hj : j < 3584) :
    step s = .next ((s.takeEvent es).romWrite j b) := by
  rw [step_of_event h, performEvent_romWrite_of_offered (s := s.takeEvent es) hl hj]

theorem step_of_loadDone {s : State} {es : List Event} (h : s.env.script = .loadDone :: es) :
    step s = .next { s.takeEvent es with loaded := true } := by
  rw [step_of_event h, performEvent]

/-- Two offered `RomWrite`s are performed in the order of the script. -/
theorem run_two_romWrites {s : State} {j k : Nat} (hl : s.loaded = false) (hj : j < 3584)
    (hk : k < 3584) (b c : Byte) (es : List Event) :
    core.run 2 (s.takeEvent (.romWrite j b :: .romWrite k c :: es)) =
      .next (((s.takeEvent es).romWrite j b).romWrite k c) := by
  have hfirst : step (s.takeEvent (.romWrite j b :: .romWrite k c :: es)) =
      .next ((s.takeEvent (.romWrite k c :: es)).romWrite j b) := step_of_romWrite rfl hl hj
  have hsecond : step ((s.takeEvent (.romWrite k c :: es)).romWrite j b) =
      .next (((s.takeEvent es).romWrite j b).romWrite k c) := step_of_romWrite rfl hl hk
  exact (core_run_succ hfirst 1).trans (core_run_succ hsecond 0)

/-- Settles O13: the step of each of the two events, and the two orders by `romWrite_comm`. -/
theorem romIsLoadedByteByByte : Obligations.RomIsLoadedByteByByte := by
  refine ⟨fun s j b es hs hl hj => ?_, fun s es hs => step_of_loadDone hs,
    fun s j k b c es hm hl hj hk hne => ?_⟩
  · exact ⟨_, step_of_romWrite hs hl hj, rfl, fun a => Memory.read_write s.mem (0x200 + j) a b⟩
  · have hm' : MemoryCanonical (s.takeEvent es) := hm
    rw [run_two_romWrites hl hj hk, run_two_romWrites hl hk hj, State.romWrite_comm hm' hj hk hne]

end Sys2Proof.Machine
end

section
/-! SUPPORT. The load script (70_reset_and_hazards.md R241, R242): the machine that `Reset`, the
`RomWrite`s of an image and `LoadDone` leave, and the word it fetches first. -/

namespace Sys2Proof.Machine

theorem Memory.read_writeFrom_inside (m : Memory) (a : Nat) (bs : List Byte) {j : Nat}
    (h : j < bs.length) : (m.writeFrom a bs).read (a + j) = bs[j] := by
  rw [Memory.read_writeFrom, dif_pos ⟨Nat.le_add_right a j, Nat.add_lt_add_left h a⟩]
  simp only [Nat.add_sub_cancel_left]

/-- The machine with an image loaded, its first step still to come: the reset state with the image in
the program area and the gate open (R242). -/
def State.withImage (image : List Byte) (env : Environment) : State :=
  { State.reset with
    mem := Memory.writeFrom [] Config.progBase image
    loaded := true
    env := env }

theorem State.read_withImage {image : List Byte} (env : Environment) {j : Nat}
    (h : j < image.length) : (State.withImage image env).mem.read (0x200 + j) = image[j] :=
  Memory.read_writeFrom_inside [] Config.progBase image h

/-- R241: the bytes at the reset value of `pc` are the first two of the image. -/
theorem State.fetchWord_withImage (hi lo : Byte) (rest : List Byte) (env : Environment) :
    (State.withImage (hi :: lo :: rest) env).fetchWord = wordOfBytes hi lo := by
  have hlen : 1 < (hi :: lo :: rest).length := Nat.succ_lt_succ (Nat.succ_pos _)
  have hhi : (State.withImage (hi :: lo :: rest) env).mem.read 0x200 = hi :=
    State.read_withImage env (Nat.zero_lt_of_lt hlen)
  have hlo : (State.withImage (hi :: lo :: rest) env).mem.read 0x201 = lo :=
    State.read_withImage env hlen
  exact congr (congrArg wordOfBytes hhi) hlo

theorem step_of_reset {s : State} {es : List Event} (h : s.env.script = .reset :: es) :
    step s = .next (s.takeEvent es).resetEvent := by
  rw [step_of_event h, performEvent]

/-- While the gate is closed, the `RomWrite`s of bytes that fit the program area store them from their
offset up, one step each. -/
theorem run_romWrites {s : State} {j : Nat} {bs : List Byte} {es : List Event} (k : Nat)
    (hl : s.loaded = false) (hfit : j + bs.length ≤ 3584)
    (hs : s.env.script = romWrites j bs ++ es) :
    core.run (bs.length + k) s =
      core.run k { s.takeEvent es with mem := s.mem.writeFrom (Config.progBase + j) bs } := by
  induction bs generalizing s j with
  | nil =>
    have hsame : s = s.takeEvent es :=
      congrArg (fun script => { s with env := { s.env with script := script } }) hs
    rw [List.length_nil, Nat.zero_add]
    exact congrArg (core.run k) hsame
  | cons b bs ih =>
    rw [List.length_cons] at hfit
    have hfirst : step s = .next ((s.takeEvent (romWrites (j + 1) bs ++ es)).romWrite j b) :=
      step_of_romWrite hs hl (by omega)
    calc core.run (bs.length + 1 + k) s
      _ = core.run (bs.length + k + 1) s := by rw [Nat.add_right_comm]
      _ = core.run (bs.length + k) ((s.takeEvent (romWrites (j + 1) bs ++ es)).romWrite j b) :=
        core_run_succ hfirst _
      _ = _ := ih hl (by omega) rfl

/-- The load script of an image that fits leaves the machine with that image, whatever was before. -/
theorem run_loadScript {s : State} {image : List Byte} {es : List Event}
    (hfit : image.length ≤ 3584) (hs : s.env.script = loadScript image ++ es) :
    core.run (image.length + 2) s = .next (State.withImage image { s.env with script := es }) := by
  have hs' : s.env.script = .reset :: (romWrites 0 image ++ (.loadDone :: es)) := by
    rw [hs, loadScript, List.cons_append, List.append_assoc, List.singleton_append]
  calc core.run (image.length + 1 + 1) s
    _ = core.run (image.length + 1) (s.takeEvent (romWrites 0 image ++ .loadDone :: es)).resetEvent :=
      core_run_succ (step_of_reset hs') _
    _ = core.run 1 { (s.takeEvent (.loadDone :: es)).resetEvent with
          mem := Memory.writeFrom [] Config.progBase image } :=
      run_romWrites 1 rfl (Nat.le_trans (Nat.le_of_eq (Nat.zero_add _)) hfit) rfl
    _ = .next (State.withImage image { s.env with script := es }) :=
      core_run_succ (step_of_loadDone rfl) 0

/-- Settles O14: the script leaves `State.withImage`, and the rest is read off that state. -/
theorem loadedProgramStartsAtItsFirstWord : Obligations.LoadedProgramStartsAtItsFirstWord := by
  intro s image es hfit hs
  refine ⟨_, run_loadScript hfit hs, rfl, rfl, rfl, rfl, fun j => State.read_withImage _, ?_⟩
  rintro hi lo rest rfl
  exact State.fetchWord_withImage hi lo rest _

end Sys2Proof.Machine
end

section
/-! SUPPORT. The encoder and the decoder are inverse (30_encoding.md R71 to R80): what an encoded
instruction decodes to, what a decoded word encodes to, which words decode to nothing, and the row of the
opcode map that a word selects. -/

namespace Sys2Proof

/-! ### Decoding an encoded instruction -/

theorem decodeWord_encode (i : Instr) : decodeWord (encode i) = .ok i := by
  cases i with
  | cls | ret => rfl
  | jp | call | ldI | jpV0 =>
    simp [encode, decodeWord, fieldH_wordNNN, fieldNNN_wordNNN]
  | seImm | sneImm | ldImm | addImm | rnd =>
    simp [encode, decodeWord, fieldH_wordXKK, fieldX_wordXKK, fieldKK_wordXKK]
  | seReg | sneReg | drw =>
    simp [encode, decodeWord, fieldH_wordXYN, fieldX_wordXYN, fieldY_wordXYN, fieldN_wordXYN]
  | ldReg | orReg | andReg | xorReg | addReg | subReg | shr | subnReg | shl =>
    simp [encode, decodeWord, decode8, fieldH_wordXYN, fieldX_wordXYN, fieldY_wordXYN, fieldN_wordXYN]
  | skp | sknp =>
    simp [encode, decodeWord, decodeE, fieldH_wordXKK, fieldX_wordXKK, fieldKK_wordXKK]
  | ldVxDt | ldDtVx | ldStVx | addI | ldF | ldB | storeRegs | loadRegs | ldKey =>
    simp [encode, decodeWord, decodeF, fieldH_wordXKK, fieldX_wordXKK, fieldKK_wordXKK]

/-- Settles O2: by the formats of R71, whose fields the decoder reads back. -/
theorem decodeOfEncodeIsIdentity : Obligations.DecodeOfEncodeIsIdentity :=
  decodeWord_encode

/-- Settles O1: each word and each field is computed. -/
theorem sampleWordsDecode : Obligations.SampleWordsDecode :=
  ⟨rfl, rfl, rfl, rfl, rfl, rfl, rfl, rfl, rfl, rfl, rfl, rfl, rfl, rfl, rfl, rfl, rfl, rfl⟩

/-! ### Encoding a decoded word -/

/-- What `r` decodes the word `w` to, if anything, has `w` as its encoding. -/
def EncodesBack (w : Word) (r : Except DecodeError Instr) : Prop :=
  ∀ i, r = .ok i → encode i = w

theorem EncodesBack.ok {w : Word} {i : Instr} (h : encode i = w) : EncodesBack w (.ok i) :=
  fun _ hi => Except.ok.inj hi ▸ h

theorem EncodesBack.error {w : Word} {e : DecodeError} : EncodesBack w (.error e) :=
  fun _ h => nomatch h

theorem EncodesBack.ite {w : Word} {c : Prop} [Decidable c] {a b : Except DecodeError Instr}
    (ha : c → EncodesBack w a) (hb : ¬c → EncodesBack w b) : EncodesBack w (if c then a else b) :=
  iteInduction ha hb

theorem wordNNN_of_field {w : Word} {h : Nibble} (hh : fieldH w = h) :
    wordNNN h (fieldNNN w) = w := hh ▸ wordNNN_fields w

theorem wordXKK_of_field {w : Word} {h : Nibble} (hh : fieldH w = h) :
    wordXKK h (fieldX w) (fieldKK w) = w := hh ▸ wordXKK_fields w

theorem wordXKK_of_fields {w : Word} {h : Nibble} {kk : Byte} (hh : fieldH w = h)
    (hk : fieldKK w = kk) : wordXKK h (fieldX w) kk = w := hk ▸ wordXKK_of_field hh

theorem wordXYN_of_field {w : Word} {h : Nibble} (hh : fieldH w = h) :
    wordXYN h (fieldX w) (fieldY w) (fieldN w) = w := hh ▸ wordXYN_fields w

theorem wordXYN_of_fields {w : Word} {h n : Nibble} (hh : fieldH w = h) (hn : fieldN w = n) :
    wordXYN h (fieldX w) (fieldY w) n = w := hn ▸ wordXYN_of_field hh

theorem decode0_encodesBack (w : Word) : EncodesBack w (decode0 w) := by
  unfold decode0
  exact .ite (fun h => .ok h.symm) fun _ => .ite (fun h => .ok h.symm) fun _ => .error

theorem decode8_encodesBack {w : Word} (hh : fieldH w = 0x8) : EncodesBack w (decode8 w) := by
  unfold decode8
  iterate 9 refine .ite (fun hn => .ok (wordXYN_of_fields hh hn)) fun _ => ?_
  exact .error

theorem decodeE_encodesBack {w : Word} (hh : fieldH w = 0xE) : EncodesBack w (decodeE w) := by
  unfold decodeE
  iterate 2 refine .ite (fun hk => .ok (wordXKK_of_fields hh hk)) fun _ => ?_
  exact .error

theorem decodeF_encodesBack {w : Word} (hh : fieldH w = 0xF) : EncodesBack w (decodeF w) := by
  unfold decodeF
  iterate 9 refine .ite (fun hk => .ok (wordXKK_of_fields hh hk)) fun _ => ?_
  exact .error

/-- The last branch of the primary dispatch. -/
theorem nibble_eq_F_of_ne : ∀ h : Nibble, h ≠ 0x0 → h ≠ 0x1 → h ≠ 0x2 → h ≠ 0x3 → h ≠ 0x4 → h ≠ 0x5 →
    h ≠ 0x6 → h ≠ 0x7 → h ≠ 0x8 → h ≠ 0x9 → h ≠ 0xA → h ≠ 0xB → h ≠ 0xC → h ≠ 0xD → h ≠ 0xE →
    h = 0xF := by bv_omega

theorem decodeWord_encodesBack (w : Word) : EncodesBack w (decodeWord w) := by
  unfold decodeWord
  refine .ite (fun _ => decode0_encodesBack w) fun h0 => ?_
  refine .ite (fun hh => .ok (wordNNN_of_field hh)) fun h1 => ?_
  refine .ite (fun hh => .ok (wordNNN_of_field hh)) fun h2 => ?_
  refine .ite (fun hh => .ok (wordXKK_of_field hh)) fun h3 => ?_
  refine .ite (fun hh => .ok (wordXKK_of_field hh)) fun h4 => ?_
  refine .ite (fun hh => .ite (fun hn => .ok (wordXYN_of_fields hh hn)) fun _ => .error) fun h5 => ?_
  refine .ite (fun hh => .ok (wordXKK_of_field hh)) fun h6 => ?_
  refine .ite (fun hh => .ok (wordXKK_of_field hh)) fun h7 => ?_
  refine .ite decode8_encodesBack fun h8 => ?_
  refine .ite (fun hh => .ite (fun hn => .ok (wordXYN_of_fields hh hn)) fun _ => .error) fun h9 => ?_
  refine .ite (fun hh => .ok (wordNNN_of_field hh)) fun hA => ?_
  refine .ite (fun hh => .ok (wordNNN_of_field hh)) fun hB => ?_
  refine .ite (fun hh => .ok (wordXKK_of_field hh)) fun hC => ?_
  refine .ite (fun hh => .ok (wordXYN_of_field hh)) fun hD => ?_
  refine .ite decodeE_encodesBack fun hE => ?_
  exact decodeF_encodesBack
    (nibble_eq_F_of_ne _ h0 h1 h2 h3 h4 h5 h6 h7 h8 h9 hA hB hC hD hE)

theorem encode_of_decodeWord {w : Word} {i : Instr} (h : decodeWord w = .ok i) : encode i = w :=
  decodeWord_encodesBack w i h

theorem decodeWord_of_encode {w : Word} {i : Instr} (h : encode i = w) : decodeWord w = .ok i :=
  h ▸ decodeWord_encode i

/-- Settles O3: each branch of the decoder knows the fields that its instruction's word is assembled from. -/
theorem encodeOfDecodeIsIdentity : Obligations.EncodeOfDecodeIsIdentity :=
  fun _ _ => encode_of_decodeWord

/-! ### The Unsupported set (R79) -/

theorem ite_ok_eq_error_iff {c : Prop} [Decidable c] {i : Instr} {r : Except DecodeError Instr}
    {e : DecodeError} : (if c then .ok i else r) = .error e ↔ ¬c ∧ r = .error e := by
  by_cases h : c <;> simp [h]

theorem decode0_eq_error_iff (w : Word) :
    decode0 w = .error (.unsupported w) ↔ w ≠ 0x00E0 ∧ w ≠ 0x00EE := by
  simp [decode0, ite_ok_eq_error_iff]

theorem decode8_eq_error_iff (w : Word) :
    decode8 w = .error (.unsupported w) ↔ 8 ≤ (fieldN w).toNat ∧ fieldN w ≠ 0xE := by
  simp only [decode8, ite_ok_eq_error_iff, and_true]
  generalize fieldN w = n
  bv_omega

theorem decodeE_eq_error_iff (w : Word) :
    decodeE w = .error (.unsupported w) ↔ fieldKK w ≠ 0x9E ∧ fieldKK w ≠ 0xA1 := by
  simp [decodeE, ite_ok_eq_error_iff]

theorem decodeF_eq_error_iff (w : Word) :
    decodeF w = .error (.unsupported w) ↔
      fieldKK w ∉ [0x07#8, 0x0A#8, 0x15#8, 0x18#8, 0x1E#8, 0x29#8, 0x33#8, 0x55#8, 0x65#8] := by
  simp [decodeF, ite_ok_eq_error_iff]

theorem nibble_cases (h : Nibble) : h = 0x0 ∨ h = 0x1 ∨ h = 0x2 ∨ h = 0x3 ∨ h = 0x4 ∨ h = 0x5 ∨
    h = 0x6 ∨ h = 0x7 ∨ h = 0x8 ∨ h = 0x9 ∨ h = 0xA ∨ h = 0xB ∨ h = 0xC ∨ h = 0xD ∨ h = 0xE ∨
    h = 0xF := by bv_omega

/-- Settles O5: for each high nibble, the rejections of the branch that it selects. -/
theorem unsupportedWordsAreExactlyThese : Obligations.UnsupportedWordsAreExactlyThese := by
  intro w
  rcases nibble_cases (fieldH w) with
      h | h | h | h | h | h | h | h | h | h | h | h | h | h | h | h <;>
    simp [decodeWord, h, decode0_eq_error_iff, decode8_eq_error_iff, decodeE_eq_error_iff,
      decodeF_eq_error_iff]

/-! ### The rows of the opcode map (R80) -/

theorem fitsRow (i : Instr) : i.row.selects (encode i) = true := by
  cases i with
  | cls | ret => decide
  | jp | call | ldI | jpV0 => exact beq_iff_eq.mpr (Laws.FitsRow.mask_nnn ..)
  | seImm | sneImm | ldImm | addImm | rnd => exact beq_iff_eq.mpr (Laws.FitsRow.mask_xkk ..)
  | drw => exact beq_iff_eq.mpr (Laws.FitsRow.mask_xyn ..)
  | seReg | sneReg | ldReg | orReg | andReg | xorReg | addReg | subReg | shr | subnReg | shl =>
    exact beq_iff_eq.mpr (Laws.FitsRow.mask_xyLow ..)
  | skp | sknp | ldVxDt | ldDtVx | ldStVx | addI | ldF | ldB | storeRegs | loadRegs | ldKey =>
    exact beq_iff_eq.mpr (Laws.FitsRow.mask_xLow ..)

theorem row_mem_opcodeMap (i : Instr) : i.row ∈ opcodeMap := by
  cases i <;> simp [opcodeMap, Instr.row]

/-- Two rows whose match columns differ under both masks share no word. -/
theorem OpcodeRow.disjoint {r r' : OpcodeRow} (h : r.pattern &&& r'.mask ≠ r'.pattern &&& r.mask)
    (w : Word) : ¬(r.selects w = true ∧ r'.selects w = true) := by
  rintro ⟨hr, hr'⟩
  rw [OpcodeRow.selects, beq_iff_eq] at hr hr'
  exact h (by rw [← hr, ← hr', BitVec.and_assoc, BitVec.and_assoc, BitVec.and_comm r.mask])

theorem opcodeMap_disjoint :
    opcodeMap.Pairwise fun r r' => ∀ w, ¬(r.selects w = true ∧ r'.selects w = true) := by
  have hmatch : opcodeMap.Pairwise fun r r' => r.pattern &&& r'.mask ≠ r'.pattern &&& r.mask := by
    decide
  exact hmatch.imp OpcodeRow.disjoint

/-- A word of an instruction's row has that instruction's bits wherever the mask covers them. -/
theorem bits_of_selects {i : Instr} {w : Word} (h : i.row.selects w = true) {lo len : Nat}
    (hm : i.row.mask.extractLsb' lo len = BitVec.allOnes len) :
    w.extractLsb' lo len = (encode i).extractLsb' lo len := by
  have hw : w &&& i.row.mask = encode i &&& i.row.mask :=
    (beq_iff_eq.mp h).trans (beq_iff_eq.mp (fitsRow i)).symm
  have hbits := congrArg (BitVec.extractLsb' lo len) hw
  rwa [BitVec.extractLsb'_and, BitVec.extractLsb'_and, hm, BitVec.and_allOnes,
    BitVec.and_allOnes] at hbits

theorem fieldH_of_selects {i : Instr} {w : Word} (h : i.row.selects w = true) :
    fieldH w = fieldH (encode i) :=
  bits_of_selects h (by cases i <;> simp [Instr.row])

theorem fieldN_of_selects {i : Instr} {w : Word} (h : i.row.selects w = true)
    (hm : i.row.mask = 0xF00F) : fieldN w = fieldN (encode i) :=
  bits_of_selects h (by simp [hm])

theorem fieldKK_of_selects {i : Instr} {w : Word} (h : i.row.selects w = true)
    (hm : i.row.mask = 0xF0FF) : fieldKK w = fieldKK (encode i) :=
  bits_of_selects h (by simp [hm])

theorem eq_encode_of_selects {i : Instr} {w : Word} (h : i.row.selects w = true)
    (hm : i.row.mask = 0xFFFF) : w = encode i := by
  have hw := bits_of_selects h (lo := 0) (len := 16) (by simp [hm])
  rwa [slice_all, slice_all] at hw

/-- A word that selects the row of an instruction decodes, to an instruction of that row. -/
theorem decodeWord_of_selects {i : Instr} {w : Word} (h : i.row.selects w = true) :
    ∃ i', decodeWord w = .ok i' ∧ i'.row = i.row := by
  have hH := fieldH_of_selects h
  cases i with
  | cls | ret =>
    exact ⟨_, decodeWord_of_encode (eq_encode_of_selects h rfl).symm, rfl⟩
  | jp | call | ldI | jpV0 | seImm | sneImm | ldImm | addImm | rnd | drw =>
    simp only [encode, fieldH_wordNNN, fieldH_wordXKK, fieldH_wordXYN] at hH
    simp [decodeWord, hH, Instr.row]
  | seReg | sneReg | ldReg | orReg | andReg | xorReg | addReg | subReg | shr | subnReg | shl =>
    have hN := fieldN_of_selects h rfl
    simp only [encode, fieldH_wordXYN, fieldN_wordXYN] at hH hN
    simp [decodeWord, decode8, hH, hN, Instr.row]
  | skp | sknp | ldVxDt | ldDtVx | ldStVx | addI | ldF | ldB | storeRegs | loadRegs | ldKey =>
    have hK := fieldKK_of_selects h rfl
    simp only [encode, fieldH_wordXKK, fieldKK_wordXKK] at hH hK
    simp [decodeWord, decodeE, decodeF, hH, hK, Instr.row]

theorem exists_row_eq : ∀ r ∈ opcodeMap, ∃ i : Instr, i.row = r := by
  simp [opcodeMap]

/-- Settles O4: the encoding of an instruction fits its row, a word of a row has the fields that the
decoder tests, and the match columns differ under every two masks. -/
theorem wordDecodesToTheRowItSelects : Obligations.WordDecodesToTheRowItSelects := by
  refine ⟨fun w i h => ⟨row_mem_opcodeMap i, ?_⟩, fun w r hr hs => ?_, opcodeMap_disjoint⟩
  · rw [← encode_of_decodeWord h]
    exact fitsRow i
  · obtain ⟨i, rfl⟩ := exists_row_eq r hr
    exact decodeWord_of_selects hs

end Sys2Proof
end

section
/-! SUPPORT. The `Step` event in its cases (60_exceptions.md R217, R230): the no-op, the fault of the fetch,
the fault of the decoder, and the decoded instruction; and the host's two hooks. -/

namespace Sys2Proof.Machine

/-- A `Step` that the host names is `stepInstr` between the event's byte offered and dropped (R228). -/
theorem step_of_step {s : State} {r : Byte} {es : List Event} (h : s.env.script = .step r :: es) :
    step s = onNext State.dropRandom (stepInstr ((s.takeEvent es).offerRandom r)) :=
  step_of_event h

theorem State.canFetch_iff (s : State) : s.canFetch = true ↔ s.pc.toNat ≤ 0xFFE := by
  rw [State.canFetch, decide_eq_true_iff]

theorem stepInstr_of_halted {s : State} (h : s.fault ≠ none) : stepInstr s = .next s := by
  rw [stepInstr, if_pos (Option.isSome_iff_ne_none.mpr h), ite_self]

theorem stepInstr_of_idle {s : State} (h : s.loaded = false ∨ s.fault ≠ none) :
    stepInstr s = .next s :=
  h.elim stepInstr_of_not_loaded stepInstr_of_halted

section Running

variable {s : State} (hl : s.loaded = true) (hf : s.fault = none)
include hl hf

theorem stepInstr_of_fetch_above (hpc : 0xFFE < s.pc.toNat) :
    stepInstr s = .next (s.raise .fetchOutOfRange 0#16) := by
  have hc : s.canFetch = false := (State.canFetch_eq_false_iff s).mpr hpc
  simp [stepInstr, hl, hf, hc]

theorem stepInstr_of_undecodable (hpc : s.pc.toNat ≤ 0xFFE)
    (hd : ∀ i, decodeWord s.fetchWord ≠ .ok i) :
    stepInstr s = .next (s.raise .unsupportedOpcode s.fetchWord) := by
  have hc : s.canFetch = true := (State.canFetch_iff s).mpr hpc
  cases he : decodeWord s.fetchWord with
  | ok i => exact absurd he (hd i)
  | error e => simp [stepInstr, hl, hf, hc, he]

theorem stepInstr_of_decoded (hpc : s.pc.toNat ≤ 0xFFE) {i : Instr}
    (hd : decodeWord s.fetchWord = .ok i) : stepInstr s = exec i s := by
  have hc : s.canFetch = true := (State.canFetch_iff s).mpr hpc
  simp [stepInstr, hl, hf, hc, hd]

end Running

/-- Settles O8: the two forms of `Step` are `stepInstr`, which executes what it decodes. -/
theorem stepRunsTheDecodedInstruction : Obligations.StepRunsTheDecodedInstruction := by
  intro s i hl hf hpc hd
  refine ⟨fun hs => ?_, fun r es hs => ?_⟩
  · rw [step_of_no_event hs, stepInstr_of_decoded hl hf hpc hd]
  · rw [step_of_step hs, stepInstr_of_decoded (s := (s.takeEvent es).offerRandom r) hl hf hpc hd]

/-- Settles O9: an idle machine's `stepInstr` answers the state it was given. -/
theorem stepDoesNothingUnlessRunning : Obligations.StepDoesNothingUnlessRunning := by
  intro s hidle
  refine ⟨fun hs => ?_, fun r es hs => ?_⟩
  · rw [step_of_no_event hs, stepInstr_of_idle hidle]
  · rw [step_of_step hs, stepInstr_of_idle (s := (s.takeEvent es).offerRandom r) hidle]
    rfl

/-- Settles O10: `stepInstr` raises at the fetch, or at decode, in both forms of `Step`. -/
theorem fetchAndDecodeRaiseTheirFaults : Obligations.FetchAndDecodeRaiseTheirFaults := by
  intro s hl hf
  refine ⟨fun hpc => ⟨fun hs => ?_, fun r es hs => ?_⟩,
    fun hpc hd => ⟨fun hs => ?_, fun r es hs => ?_⟩⟩
  · rw [step_of_no_event hs, stepInstr_of_fetch_above hl hf hpc]
    rfl
  · rw [step_of_step hs, stepInstr_of_fetch_above (s := (s.takeEvent es).offerRandom r) hl hf hpc]
    rfl
  · rw [step_of_no_event hs, stepInstr_of_undecodable hl hf hpc hd]
    rfl
  · rw [step_of_step hs,
      stepInstr_of_undecodable (s := (s.takeEvent es).offerRandom r) hl hf hpc hd]
    rfl

/-! ### The hooks -/

theorem wordOfBytes_of_word (w : Word) : wordOfBytes (w.extractLsb' 8 8) (w.extractLsb' 0 8) = w :=
  (slices_append w 0 8 8).trans (slice_all w)

theorem tableWord_toNat (w : Word) : tableWord 16 w.toNat = w := by
  rw [tableWord, Nat.mod_eq_of_lt w.isLt, BitVec.ofNat_toNat, BitVec.setWidth_eq]

theorem decodeTableWord_toNat_eq_some_iff (w : Word) (i : Instr) :
    decodeTableWord 16 w.toNat = some i ↔ decodeWord w = .ok i := by
  simp only [decodeTableWord, tableWord_toNat, bytesOfWord, decode, wordOfBytes_of_word]
  cases decodeWord w <;> simp

/-- Settles O6: the placed word is the one fetched, and it decodes to the instruction. -/
theorem placedWordIsDecodedAndRuns : Obligations.PlacedWordIsDecodedAndRuns := by
  refine ⟨decodeTableWord_toNat_eq_some_iff, fun s i => ?_⟩
  obtain ⟨hfetch, hword⟩ := fetch_withFetchWord s (encode i)
  have hd : decodeWord (s.withFetchWord 16 (encode i).toNat).fetchWord = .ok i := by
    rw [hword, decodeWord_encode]
  exact (step_of_no_event rfl).trans
    (stepInstr_of_decoded rfl rfl ((State.canFetch_iff _).mp hfetch) hd)

end Sys2Proof.Machine
end

section
/-! SUPPORT. What an instruction can do, said once: it raises the fault of its row and has no other effect,
or it raises none and leaves `effect`, whose fields are given one by one (10_state.md R35, 60_exceptions.md
R211, R218). -/

namespace Sys2Proof.Machine

/-- The state an instruction leaves when it raises no fault. -/
def effect : Instr → State → State
  | .cls, s => { s with fb := 0 }.advance
  | .ret, s => { s with stack := s.stack.dropLast }.setPc (s.stack.getLastD 0)
  | .jp nnn, s => s.setPc (zextAddr nnn)
  | .call nnn, s => { s with stack := s.stack ++ [s.next] }.setPc (zextAddr nnn)
  | .seImm x kk, s => s.skipIf (s.getV x == kk)
  | .sneImm x kk, s => s.skipIf (s.getV x != kk)
  | .seReg x y, s => s.skipIf (s.getV x == s.getV y)
  | .sneReg x y, s => s.skipIf (s.getV x != s.getV y)
  | .ldImm x kk, s => (s.setV x kk).advance
  | .addImm x kk, s => (s.setV x (s.getV x + kk)).advance
  | .ldReg x y, s => (s.setV x (s.getV y)).advance
  | .orReg x y, s => (s.setLogicResult x (s.getV x ||| s.getV y)).advance
  | .andReg x y, s => (s.setLogicResult x (s.getV x &&& s.getV y)).advance
  | .xorReg x y, s => (s.setLogicResult x (s.getV x ^^^ s.getV y)).advance
  | .addReg x y, s =>
    (s.setResultAndFlag x (s.getV x + s.getV y) (carryFlag (s.getV x) (s.getV y))).advance
  | .subReg x y, s =>
    (s.setResultAndFlag x (s.getV x - s.getV y) (greaterFlag (s.getV x) (s.getV y))).advance
  | .shr x _, s => (s.setResultAndFlag x (s.getV x >>> 1) (lowBitFlag (s.getV x))).advance
  | .subnReg x y, s =>
    (s.setResultAndFlag x (s.getV y - s.getV x) (greaterFlag (s.getV y) (s.getV x))).advance
  | .shl x _, s => (s.setResultAndFlag x (s.getV x <<< 1) (highBitFlag (s.getV x))).advance
  | .ldI nnn, s => (s.setI (zextAddr nnn)).advance
  | .jpV0 nnn, s => s.setPc (zextAddr nnn + zextByte (s.getV 0))
  | .rnd x kk, s => (s.drawn.setV x (s.random &&& kk)).advance
  | .drw x y n, s => (s.drawSprite x y n).advance
  | .skp x, s => s.skipIf (s.pressed (s.getV x).toNat)
  | .sknp x, s => s.skipIf (!s.pressed (s.getV x).toNat)
  | .ldVxDt x, s => (s.setV x s.dt).advance
  | .ldDtVx x, s => { s with dt := s.getV x }.advance
  | .ldStVx x, s => { s with st := s.getV x }.advance
  | .addI x, s => (s.setI (s.i + zextByte (s.getV x))).advance
  | .ldF x, s => (s.setI (zextByte (s.getV x) * 5#16)).advance
  | .ldB x, s => (s.storeData (decimalDigits (s.getV x))).advance
  | .storeRegs x, s => (s.storeData (s.regsUpTo x)).advance
  | .loadRegs x, s => ((s.loadRegsUpTo x).setI (s.i + (x.setWidth 16 + 1#16))).advance
  | .ldKey x, s => s.scanKeys.elim s fun k => (s.setV x (BitVec.ofNat 8 k)).advance

/-! ### The two ends of an instruction -/

theorem exec_drw (x y : Reg) (n : Nibble) (s : State) :
    exec (.drw x y n) s = withData (.drw x y n) s (effect (.drw x y n)) := rfl

theorem exec_ldB (x : Reg) (s : State) : exec (.ldB x) s = withData (.ldB x) s (effect (.ldB x)) := rfl

theorem exec_storeRegs (x : Reg) (s : State) :
    exec (.storeRegs x) s = withData (.storeRegs x) s (effect (.storeRegs x)) := rfl

theorem exec_loadRegs (x : Reg) (s : State) :
    exec (.loadRegs x) s = withData (.loadRegs x) s (effect (.loadRegs x)) := rfl

theorem withData_outOfRange {instr : Instr} {s : State} (body : State → State)
    (hpos : 0 < dataCount instr) (hout : 0xFFF < s.i.toNat + dataCount instr - 1) :
    withData instr s body = .next (s.raise .addressOutOfRange (encode instr)) := by
  obtain ⟨hrange, -⟩ | ⟨-, -, e⟩ := withData_cases instr s body
  · rw [State.dataInRange_iff] at hrange
    omega
  · exact e

theorem withData_of_not_raises {i : Instr} {s : State} (body : State → State)
    (h : ¬Raises i s .addressOutOfRange) : withData i s body = .next (body s) := by
  obtain ⟨-, e⟩ | ⟨hpos, hout, -⟩ := withData_cases i s body
  · exact e
  · exact absurd ⟨hpos, hout⟩ h

/-- The row of R211 that an instruction meets is the fault it raises, with its own word (R218). -/
theorem exec_of_raises {i : Instr} {s : State} {c : Cause} (h : Raises i s c) :
    exec i s = .next (s.raise c (encode i)) := by
  cases c with
  | stackUnderflow =>
    obtain ⟨rfl, hsp⟩ := h
    have hempty : s.stack = [] := List.length_eq_zero_iff.mp hsp
    simp only [exec, execRet, State.pop_of_empty s hempty, Param.underflowPolicy]
  | stackOverflow =>
    obtain ⟨⟨nnn, rfl⟩, hsp⟩ := h
    simp only [exec, execCall, State.push_of_full s _ hsp]
  | addressOutOfRange =>
    obtain ⟨hpos, hout⟩ := h
    cases i with
    | drw | ldB | storeRegs | loadRegs =>
      simp only [exec_drw, exec_ldB, exec_storeRegs, exec_loadRegs]
      exact withData_outOfRange _ hpos hout
    | _ => exact absurd hpos (Nat.lt_irrefl 0)
  | unsupportedOpcode => exact h.elim
  | fetchOutOfRange => exact h.elim

theorem exec_of_not_raises {i : Instr} {s : State} (h : ∀ c, ¬Raises i s c) :
    exec i s = .next (effect i s) := by
  cases i with
  | ret =>
    cases hp : s.pop with
    | none =>
      have hsp : s.sp = 0 := List.length_eq_zero_iff.mpr (State.pop_eq_none hp)
      exact absurd ⟨rfl, hsp⟩ (h .stackUnderflow)
    | some p =>
      obtain ⟨hstack, ht⟩ := State.pop_eq_some hp
      simp only [exec, execRet, hp, effect, hstack, List.dropLast_concat, List.getLastD_concat]
      rw [← ht]
  | call nnn =>
    have hroom : s.sp < 16 := Nat.lt_of_not_le fun hfull => h .stackOverflow ⟨⟨nnn, rfl⟩, hfull⟩
    simp only [exec, execCall, State.push_of_room s _ hroom, effect]
  | drw | ldB | storeRegs | loadRegs =>
    simp only [exec_drw, exec_ldB, exec_storeRegs, exec_loadRegs]
    exact withData_of_not_raises _ (h .addressOutOfRange)
  | ldKey x =>
    obtain ⟨k, hk, e⟩ | ⟨hnone, e⟩ := execLdKey_cases x s
    · simp only [exec, e, effect, hk, Option.elim]
    · simp only [exec, e, effect, hnone, Option.elim]
  | cls => simp only [exec, execCls, effect, Param.clsSetsDirty, Bool.or_false]
  | _ => rfl

theorem exec_cases (i : Instr) (s : State) :
    (∃ c, Raises i s c ∧ exec i s = .next (s.raise c (encode i))) ∨
      ((∀ c, ¬Raises i s c) ∧ exec i s = .next (effect i s)) := by
  by_cases h : ∃ c, Raises i s c
  · obtain ⟨c, hc⟩ := h
    exact .inl ⟨c, hc, exec_of_raises hc⟩
  · have h' : ∀ c, ¬Raises i s c := fun c hc => h ⟨c, hc⟩
    exact .inr ⟨h', exec_of_not_raises h'⟩

theorem exec_next_cases {i : Instr} {s t : State} (h : exec i s = .next t) :
    (∃ c, Raises i s c ∧ t = s.raise c (encode i)) ∨ ((∀ c, ¬Raises i s c) ∧ t = effect i s) := by
  obtain ⟨c, hc, e⟩ | ⟨hn, e⟩ := exec_cases i s
  · exact .inl ⟨c, hc, by cases h.symm.trans e; rfl⟩
  · exact .inr ⟨hn, by cases h.symm.trans e; rfl⟩

theorem exec_total (i : Instr) (s : State) : ∃ t, exec i s = .next t := by
  obtain ⟨c, -, e⟩ | ⟨-, e⟩ := exec_cases i s
  · exact ⟨_, e⟩
  · exact ⟨_, e⟩

/-- Only `00EE`, `2nnn` and the four instructions that access data can raise a fault. -/
theorem not_raises {i : Instr} {s : State} (hret : i ≠ .ret) (hcall : ∀ nnn, i ≠ .call nnn)
    (hdata : dataCount i = 0) (c : Cause) : ¬Raises i s c := by
  cases c with
  | stackUnderflow => exact fun h => hret h.1
  | stackOverflow => exact fun ⟨⟨nnn, h⟩, _⟩ => hcall nnn h
  | addressOutOfRange => exact fun h => Nat.ne_of_gt h.1 hdata
  | unsupportedOpcode => exact id
  | fetchOutOfRange => exact id

/-! ### The fields of `effect` -/

/-- `Fx0A` keeps whatever a register write and the advance keep. -/
theorem effect_ldKey_keeps {α : Type} {g : State → α} {s : State} {x : Reg}
    (hg : ∀ b, g (s.setV x b).advance = g s) : g (effect (.ldKey x) s) = g s := by
  rw [effect]
  cases s.scanKeys with
  | none => rfl
  | some k => exact hg _

section Fields

variable {i : Instr} (s : State)

theorem effect_fault : (effect i s).fault = s.fault := by
  cases i with
  | ldKey x => exact effect_ldKey_keeps fun _ => rfl
  | _ => rfl

theorem effect_i (hi : ¬writesI i) : (effect i s).i = s.i := by
  cases i with
  | ldI | addI | ldF | loadRegs => exact absurd (by simp [writesI]) hi
  | ldKey x => exact effect_ldKey_keeps fun _ => rfl
  | _ => rfl

theorem effect_stack (hi : ¬writesStack i) : (effect i s).stack = s.stack := by
  cases i with
  | ret | call => exact absurd (by simp [writesStack]) hi
  | ldKey x => exact effect_ldKey_keeps fun _ => rfl
  | _ => rfl

theorem effect_dt (hi : ∀ x, i ≠ .ldDtVx x) : (effect i s).dt = s.dt := by
  cases i with
  | ldDtVx x => exact absurd rfl (hi x)
  | ldKey x => exact effect_ldKey_keeps fun _ => rfl
  | _ => rfl

theorem effect_st (hi : ∀ x, i ≠ .ldStVx x) : (effect i s).st = s.st := by
  cases i with
  | ldStVx x => exact absurd rfl (hi x)
  | ldKey x => exact effect_ldKey_keeps fun _ => rfl
  | _ => rfl

theorem effect_fb (hcls : i ≠ .cls) (hdrw : ∀ x y n, i ≠ .drw x y n) : (effect i s).fb = s.fb := by
  cases i with
  | cls => exact absurd rfl hcls
  | drw x y n => exact absurd rfl (hdrw x y n)
  | ldKey x => exact effect_ldKey_keeps fun _ => rfl
  | _ => rfl

theorem effect_dirty (hi : ∀ x y n, i ≠ .drw x y n) : (effect i s).dirty = s.dirty := by
  cases i with
  | drw x y n => exact absurd rfl (hi x y n)
  | ldKey x => exact effect_ldKey_keeps fun _ => rfl
  | _ => rfl

theorem effect_env (hi : ∀ x kk, i ≠ .rnd x kk) : (effect i s).env = s.env := by
  cases i with
  | rnd x kk => exact absurd rfl (hi x kk)
  | ldKey x => exact effect_ldKey_keeps fun _ => rfl
  | _ => rfl

/-- The bytes an instruction stores from `I` on. -/
def storedBytes : Instr → State → List Byte
  | .ldB x, s => decimalDigits (s.getV x)
  | .storeRegs x, s => s.regsUpTo x
  | _, _ => []

theorem storedBytes_length : (storedBytes i s).length = storedCount i := by
  cases i with
  | storeRegs x => exact s.regsUpTo_length x
  | _ => rfl

theorem effect_mem : (effect i s).mem = s.mem.writeFrom s.i.toNat (storedBytes i s) := by
  cases i with
  | ldKey x => exact effect_ldKey_keeps fun _ => rfl
  | _ => rfl

theorem getV_effect {j : Reg} (hi : writesV i j = false) : (effect i s).getV j = s.getV j := by
  cases i with
  | ldKey x => exact effect_ldKey_keeps (g := (·.getV j)) fun b => by simp_all [writesV]
  | ldImm | addImm | ldReg | orReg | andReg | xorReg | addReg | subReg | subnReg | shr | shl | rnd
  | drw | ldVxDt => simp_all [writesV, effect]
  | loadRegs x =>
    have hj : ¬j.toNat ≤ x.toNat := of_decide_eq_false hi
    rw [effect, State.getV_advance, State.getV_setI, State.getV_loadRegsUpTo, if_neg hj]
  | _ => rfl

end Fields

end Sys2Proof.Machine
end

section
/-! SUPPORT. Faults, frame, `pc` and `VF` of every instruction (10_state.md R21, R22, R35; 60_exceptions.md
R211): each statement is one on a raised fault and one on `effect`. -/

namespace Sys2Proof.Machine

/-- Settles O41: the two ends of an instruction. -/
theorem instructionsRaiseExactlyTheseFaults : Obligations.InstructionsRaiseExactlyTheseFaults :=
  fun _ s => ⟨fun _ hc => exec_of_raises hc, fun hn => ⟨_, exec_of_not_raises hn, effect_fault s⟩⟩

theorem exec_getV {i : Instr} {s t : State} (h : exec i s = .next t) {j : Reg}
    (hi : writesV i j = false) : t.getV j = s.getV j := by
  obtain ⟨c, -, rfl⟩ | ⟨-, rfl⟩ := exec_next_cases h
  · rfl
  · exact getV_effect s hi

/-- Settles O44: a raised fault changes the record alone, and `effect` keeps each field that its row of the
table does not write. -/
theorem frameFollowsTheAccessTable : Obligations.FrameFollowsTheAccessTable := by
  intro i s t h
  refine ⟨fun _ => exec_getV h, ?_⟩
  have hkeys := exec_keys h
  have hloaded := exec_loaded h
  obtain ⟨c, -, rfl⟩ | ⟨-, rfl⟩ := exec_next_cases h
  · exact ⟨fun _ => rfl, fun _ => rfl, fun _ => rfl, fun _ => rfl, hkeys, hloaded, fun _ _ => rfl,
      fun _ => rfl, fun _ => rfl, fun _ _ => rfl⟩
  · refine ⟨effect_i s, effect_stack s, effect_dt s, effect_st s, hkeys, hloaded, effect_fb s,
      effect_dirty s, effect_env s, fun a ha => ?_⟩
    rw [effect_mem, Memory.read_writeFrom_outside _ _ _ _ (by rwa [storedBytes_length])]

/-! ### `pc` (R22) -/

theorem State.skipIf_pc_cases (s : State) (c : Bool) :
    (s.skipIf c).pc = s.pc + 2#16 ∨ (s.skipIf c).pc = s.pc + 4#16 := by
  cases c
  · exact .inl rfl
  · exact .inr rfl

theorem effect_pc {i : Instr} (s : State) (ht : ¬isTransfer i) (hs : ¬isSkip i)
    (hk : ∀ x, i ≠ .ldKey x) : (effect i s).pc = s.pc + 2#16 := by
  cases i with
  | ret | jp | call | jpV0 => exact absurd (by simp [isTransfer]) ht
  | seImm | sneImm | seReg | sneReg | skp | sknp => exact absurd (by simp [isSkip]) hs
  | ldKey x => exact absurd rfl (hk x)
  | _ => rfl

theorem effect_pc_of_isSkip {i : Instr} (s : State) (hs : isSkip i) :
    (effect i s).pc = s.pc + 2#16 ∨ (effect i s).pc = s.pc + 4#16 := by
  obtain ⟨x, kk, rfl⟩ | ⟨x, kk, rfl⟩ | ⟨x, y, rfl⟩ | ⟨x, y, rfl⟩ | ⟨x, rfl⟩ | ⟨x, rfl⟩ := hs <;>
    exact s.skipIf_pc_cases _

theorem effect_ldKey_pc (s : State) (x : Reg) :
    (effect (.ldKey x) s).pc = s.pc ∨ (effect (.ldKey x) s).pc = s.pc + 2#16 := by
  rw [effect]
  cases s.scanKeys with
  | none => exact .inl rfl
  | some k => exact .inr rfl

/-- Settles O45: `pc` after a raised fault, and after each of the kinds of instruction. -/
theorem pcAdvancesByTwo : Obligations.PcAdvancesByTwo := by
  intro i s t h
  obtain ⟨c, hc, rfl⟩ | ⟨hn, rfl⟩ := exec_next_cases h
  · exact ⟨fun _ => rfl, fun hn => absurd hc (hn c)⟩
  · refine ⟨fun ⟨c, hc⟩ => absurd hc (hn c), fun _ ht => ⟨effect_pc s ht, effect_pc_of_isSkip s, ?_⟩⟩
    rintro ⟨x, rfl⟩
    exact effect_ldKey_pc s x

/-! ### `VF` (R21) -/

theorem flagByte_eq_zero_or_one (b : Bool) : flagByte b = 0 ∨ flagByte b = 1 := by
  cases b
  · exact .inl rfl
  · exact .inr rfl

theorem State.vf_setResultAndFlag (s : State) (x : Reg) (r f : Byte) :
    (s.setResultAndFlag x r f).advance.vf = f := by
  simp [State.vf]

theorem State.vf_drawSprite (s : State) (x y : Reg) (n : Nibble) :
    (s.drawSprite x y n).advance.vf =
      flagByte (blit (spritePixels s.mem s.i.toNat (s.getV x) (s.getV y) n.toNat) (s.fb, false)).2 := by
  simp [State.vf]

theorem effect_vf_of_isFlagWriter {i : Instr} (s : State) (hi : isFlagWriter i) :
    (effect i s).vf = 0 ∨ (effect i s).vf = 1 := by
  obtain ⟨x, y, rfl⟩ | ⟨x, y, rfl⟩ | ⟨x, y, rfl⟩ | ⟨x, y, rfl⟩ | ⟨x, y, rfl⟩ | ⟨x, y, n, rfl⟩ := hi
  case inr.inr.inr.inr.inr =>
    rw [effect, State.vf_drawSprite]
    exact flagByte_eq_zero_or_one _
  all_goals
    rw [effect, State.vf_setResultAndFlag]
    exact flagByte_eq_zero_or_one _

/-- Settles O28: a flag writer's last write is a flag, and any other instruction that changes `VF` has it
in its row of the access table. -/
theorem flagWritersLeaveZeroOrOne : Obligations.FlagWritersLeaveZeroOrOne := by
  intro i s t h
  refine ⟨fun hi hn => ?_, fun hi hvf => ?_⟩
  · cases h.symm.trans (exec_of_not_raises hn)
    exact effect_vf_of_isFlagWriter s hi
  · have hw : writesV i 0xF = true := by
      cases hw : writesV i 0xF with
      | true => rfl
      | false => exact absurd (exec_getV h hw) hvf
    cases i with
    | addReg | subReg | subnReg | shr | shl | drw => exact absurd (by simp [isFlagWriter]) hi
    | loadRegs x =>
      have hx : 0xF ≤ x.toNat := of_decide_eq_true hw
      have hF : x = 0xF := by bv_omega
      simp [hF]
    | ldImm | addImm | rnd | ldReg | orReg | andReg | xorReg | ldVxDt | ldKey =>
      obtain rfl := beq_iff_eq.mp hw
      simp
    | _ => exact absurd hw Bool.false_ne_true

end Sys2Proof.Machine
end

section
/-! SUPPORT. What one step can do, said once (60_exceptions.md R217, R222, R230), and what every step keeps:
the canonical form of memory, the bound of the stack, the truth of a latched record, the halt. -/

namespace Sys2Proof.Machine

/-- The Machine of `s` with another host beside it. -/
def State.withEnv (s : State) (env : Environment) : State := { s with env := env }

/-! ### The inversion of a step -/

/-- A fault that an instruction raises is one that the state shows. -/
theorem recordExplains_of_raises {i : Instr} {s : State} {c : Cause} (hfetch : s.canFetch = true)
    (hd : decodeWord s.fetchWord = .ok i) (hr : Raises i s c) :
    RecordExplains s ⟨c, encode i, s.pc⟩ := by
  have hword : encode i = s.fetchWord := encode_of_decodeWord hd
  have hd' : decodeWord (encode i) = .ok i := decodeWord_encode i
  refine ⟨rfl, ?_⟩
  cases c with
  | stackUnderflow =>
    obtain ⟨rfl, hsp⟩ := hr
    exact ⟨hfetch, hword, rfl, hsp⟩
  | stackOverflow =>
    obtain ⟨⟨nnn, rfl⟩, hsp⟩ := hr
    exact ⟨hfetch, hword, ⟨nnn, hd'⟩, hsp⟩
  | addressOutOfRange =>
    obtain ⟨hpos, hout⟩ := hr
    exact ⟨hfetch, hword, i, hd', hpos, hout⟩
  | unsupportedOpcode => exact hr.elim
  | fetchOutOfRange => exact hr.elim

/-- `Step` does nothing while not loaded or halted; else it latches a record that the state explains, or
executes one instruction that raises nothing. -/
theorem stepInstr_next_cases {s t : State} (h : stepInstr s = .next t) :
    t = s ∨ s.loaded = true ∧ s.fault = none ∧
      ((∃ f, RecordExplains s f ∧ t = { s with fault := some f }) ∨
        ∃ i, decodeWord s.fetchWord = .ok i ∧ (∀ c, ¬Raises i s c) ∧ t = effect i s) := by
  obtain ⟨-, e⟩ | ⟨hl, hf, hcases⟩ := stepInstr_cases s
  · cases e.symm.trans h
    exact .inl rfl
  refine .inr ⟨hl, hf, ?_⟩
  obtain ⟨hc, e⟩ | ⟨hc, hd, e⟩ | ⟨hc, i, hd, e⟩ := hcases
  · cases e.symm.trans h
    have hpc : 0xFFE < s.pc.toNat := (State.canFetch_eq_false_iff s).mp hc
    exact .inl ⟨⟨.fetchOutOfRange, 0, s.pc⟩, ⟨rfl, hpc, rfl⟩, rfl⟩
  · cases e.symm.trans h
    exact .inl ⟨⟨.unsupportedOpcode, s.fetchWord, s.pc⟩, ⟨rfl, hc, rfl, hd⟩, rfl⟩
  · obtain ⟨c, hr, rfl⟩ | ⟨hn, rfl⟩ := exec_next_cases (e.symm.trans h)
    · exact .inl ⟨_, recordExplains_of_raises hc hd hr, rfl⟩
    · exact .inr ⟨i, hd, hn, rfl⟩

/-- A step is a `Step`, whose host's side before and after is the event's affair, or another event. -/
theorem step_next_cases {s t : State} (h : step s = .next t) :
    (StepIsNext s ∧ ∃ env u env', stepInstr (s.withEnv env) = .next u ∧ t = u.withEnv env') ∨
      ∃ e es, s.env.script = e :: es ∧ (∀ r, e ≠ .step r) ∧
        performEvent e (s.takeEvent es) = .next t := by
  cases hs : s.env.script with
  | nil =>
    rw [step_of_no_event hs] at h
    exact .inl ⟨.inl hs, s.env, t, t.env, h, rfl⟩
  | cons e es =>
    by_cases he : ∃ r, e = .step r
    · obtain ⟨r, rfl⟩ := he
      rw [step_of_step hs] at h
      obtain ⟨u, hu, rfl⟩ := onNext_eq_next.mp h
      exact .inl ⟨.inr ⟨r, es, hs⟩, _, u, _, hu, rfl⟩
    · rw [step_of_event hs] at h
      exact .inr ⟨e, es, rfl, fun r hr => he ⟨r, hr⟩, h⟩

/-- A property of the Machine, whatever its host, is kept by a step if `Step` and every other event
keep it. -/
theorem step_preserves {P : State → Prop} (henv : ∀ s env, P s → P (s.withEnv env))
    (hstep : ∀ {s t}, P s → stepInstr s = .next t → P t)
    (hevent : ∀ {e s t}, P s → (∀ r, e ≠ .step r) → performEvent e s = .next t → P t)
    {s t : State} (hP : P s) (h : step s = .next t) : P t := by
  obtain ⟨-, env, u, env', hu, rfl⟩ | ⟨e, es, -, hne, he⟩ := step_next_cases h
  · exact henv _ _ (hstep (henv _ _ hP) hu)
  · exact hevent (henv _ _ hP) hne he

/-! ### Memory (R50, R60) -/

theorem Memory.wf_writeFrom_of_fits {m : Memory} (h : m.wf) {a : Nat} {bs : List Byte}
    (ha : bs.length = 0 ∨ a + bs.length ≤ Config.memSize) : (m.writeFrom a bs).wf := by
  obtain hnil | hfit := ha
  · rwa [List.length_eq_zero_iff.mp hnil]
  · exact Memory.wf_writeFrom h hfit

/-- What an instruction stores, it has in its data range. -/
theorem storedCount_le_dataCount (i : Instr) : storedCount i ≤ dataCount i := by
  cases i <;> simp [storedCount, dataCount]

theorem memoryCanonical_effect {i : Instr} {s : State} (h : MemoryCanonical s)
    (hn : ∀ c, ¬Raises i s c) : MemoryCanonical (effect i s) := by
  have hrange : ¬(0 < dataCount i ∧ 0xFFF < s.i.toNat + dataCount i - 1) := hn .addressOutOfRange
  have hle := storedCount_le_dataCount i
  rw [MemoryCanonical, effect_mem]
  refine Memory.wf_writeFrom_of_fits h ?_
  rw [storedBytes_length, Config.memSize]
  omega

/-- Settles O54: by the range check of the instructions that store, and of `RomWrite`. -/
theorem stepKeepsMemoryCanonical : Obligations.StepKeepsMemoryCanonical := by
  intro s t
  refine step_preserves (fun _ _ h => h) (fun hm h => ?_) fun {e s t} hm hne h => ?_
  · obtain rfl | ⟨-, -, ⟨f, -, rfl⟩ | ⟨i, -, hn, rfl⟩⟩ := stepInstr_next_cases h
    · exact hm
    · exact hm
    · exact memoryCanonical_effect hm hn
  · cases e with
    | reset =>
      cases h
      exact Memory.wf_nil
    | romWrite j b =>
      obtain ⟨-, hj, rfl⟩ := performEvent_romWrite h
      exact Memory.wf_write hm (progBase_add_lt_memSize hj) b
    | step r => exact absurd rfl (hne r)
    | _ =>
      cases h
      exact hm

/-! ### The stack (R24) -/

theorem stackBounded_effect {i : Instr} {s : State} (h : StackBounded s) (hn : ∀ c, ¬Raises i s c) :
    StackBounded (effect i s) := by
  have hkept (hi : ¬writesStack i) : StackBounded (effect i s) := by
    rwa [StackBounded, State.sp, effect_stack s hi]
  cases i with
  | ret => exact Nat.le_trans (List.dropLast_sublist _).length_le h
  | call nnn =>
    have hroom : s.sp < 16 := Nat.lt_of_not_le fun hfull => hn .stackOverflow ⟨⟨nnn, rfl⟩, hfull⟩
    have hsp : (effect (.call nnn) s).sp = s.sp + 1 := List.length_append
    exact Nat.le_trans (Nat.le_of_eq hsp) hroom
  | _ => exact hkept (by simp [writesStack])

/-- Settles O55: a call that does not raise finds room, and no event pushes. -/
theorem stepKeepsStackBounded : Obligations.StepKeepsStackBounded := by
  intro s t
  refine step_preserves (fun _ _ h => h) (fun hb h => ?_) fun {e s t} hb hne h => ?_
  · obtain rfl | ⟨-, -, ⟨f, -, rfl⟩ | ⟨i, -, hn, rfl⟩⟩ := stepInstr_next_cases h
    · exact hb
    · exact hb
    · exact stackBounded_effect hb hn
  · cases e with
    | reset =>
      cases h
      exact Nat.zero_le 16
    | romWrite j b =>
      obtain ⟨-, -, rfl⟩ := performEvent_romWrite h
      exact hb
    | step r => exact absurd rfl (hne r)
    | _ =>
      cases h
      exact hb

/-! ### The fault record (R211, R218) -/

theorem faultExplained_of_none {s : State} (h : s.fault = none) : FaultExplained s :=
  fun _ hf => nomatch h.symm.trans hf

/-- Settles O56: a record is latched only when the state explains it; after that no instruction runs, and
an event other than `Reset`, which clears it, changes nothing that it speaks of. -/
theorem stepKeepsFaultExplained : Obligations.StepKeepsFaultExplained := by
  intro s t
  refine step_preserves (fun _ _ h => h) (fun hx h => ?_) fun {e s t} hx hne h => ?_
  · obtain rfl | ⟨hl, hf, ⟨f, hexplains, rfl⟩ | ⟨i, -, -, rfl⟩⟩ := stepInstr_next_cases h
    · exact hx
    · rintro _ ⟨⟩
      exact ⟨hl, hexplains⟩
    · exact faultExplained_of_none ((effect_fault _).trans hf)
  · cases e with
    | reset =>
      cases h
      exact faultExplained_of_none rfl
    | romWrite j b =>
      obtain ⟨hl, -, rfl⟩ := performEvent_romWrite h
      exact fun f hf => nomatch hl.symm.trans (hx f hf).1
    | loadDone =>
      cases h
      exact fun f hf => ⟨rfl, (hx f hf).2⟩
    | step r => exact absurd rfl (hne r)
    | _ =>
      cases h
      exact hx

/-- Settles O57: nothing is listed, pushed or latched. -/
theorem resetMeetsTheInvariants : Obligations.ResetMeetsTheInvariants :=
  ⟨Memory.wf_nil, Nat.zero_le 16, faultExplained_of_none rfl⟩

/-! ### The halt (R219, R220) -/

/-- Settles O42: a halted machine's `Step` does nothing, a loaded one takes no `RomWrite`, and no other event
but `Reset` touches the fields named. -/
theorem haltLastsUntilReset : Obligations.HaltLastsUntilReset := by
  intro s t f hl hf hreset h
  obtain ⟨-, env, u, env', hu, rfl⟩ | ⟨e, es, hs, hne, he⟩ := step_next_cases h
  · have hhalted : (s.withEnv env).fault ≠ none := fun hnone => nomatch hf.symm.trans hnone
    cases (stepInstr_of_halted hhalted).symm.trans hu
    exact ⟨hf, rfl, rfl, rfl, rfl, rfl, rfl, hl⟩
  · cases e with
    | reset => exact absurd hs (hreset es)
    | romWrite j b =>
      obtain ⟨hclosed, -, -⟩ := performEvent_romWrite he
      exact nomatch hl.symm.trans hclosed
    | step r => exact absurd rfl (hne r)
    | loadDone =>
      cases he
      exact ⟨hf, rfl, rfl, rfl, rfl, rfl, rfl, rfl⟩
    | _ =>
      cases he
      exact ⟨hf, rfl, rfl, rfl, rfl, rfl, rfl, hl⟩

/-! ### Progress (R222, decision D20) -/

theorem stepInstr_total (s : State) : ∃ t, stepInstr s = .next t := by
  obtain ⟨-, e⟩ | ⟨-, -, ⟨-, e⟩ | ⟨-, -, e⟩ | ⟨-, i, -, e⟩⟩ := stepInstr_cases s
  · exact ⟨_, e⟩
  · exact ⟨_, e⟩
  · exact ⟨_, e⟩
  · rw [e]
    exact exec_total i s

/-- Settles O43: an instruction always answers a next state, and of the events only `RomWrite` is tested. -/
theorem onlyAnUnofferedRomWriteStops : Obligations.OnlyAnUnofferedRomWriteStops := by
  intro s
  cases hs : s.env.script with
  | nil =>
    rw [step_of_no_event hs]
    exact .inl (stepInstr_total s)
  | cons e es =>
    cases e with
    | step r =>
      obtain ⟨t, ht⟩ := stepInstr_total ((s.takeEvent es).offerRandom r)
      rw [step_of_step hs, ht]
      exact .inl ⟨_, rfl⟩
    | romWrite j b =>
      by_cases hl : s.loaded = true
      · have hstop : step s = .fault (.romWriteAfterLoad j) := by
          rw [step_of_event hs, performEvent, State.takeEvent_loaded, if_pos hl]
        exact .inr ⟨j, b, es, rfl, .inl ⟨hl, hstop⟩⟩
      · have hl' : s.loaded = false := Bool.eq_false_iff.mpr hl
        by_cases hj : j < 3584
        · exact .inl ⟨_, step_of_romWrite hs hl' hj⟩
        · have hj' : ¬romOffsetWellFormed j = true := fun h => hj (of_decide_eq_true h)
          have hstop : step s = .refused (.romWriteOutsideProgramArea j) := by
            rw [step_of_event hs, performEvent, State.takeEvent_loaded, if_neg hl, if_neg hj']
          exact .inr ⟨j, b, es, rfl, .inr ⟨hl', Nat.le_of_not_lt hj, hstop⟩⟩
    | _ =>
      rw [step_of_event hs]
      exact .inl ⟨_, rfl⟩

end Sys2Proof.Machine
end

section
/-! SUPPORT. Which instructions use a component (10_state.md R24 to R29, R35; 60_exceptions.md R228), each as
an update of the component that commutes with every other instruction; and which steps move the delay timer
and `dirty`. -/

namespace Sys2Proof.Machine

/-! ### The updates -/

def State.withDt (s : State) (d : Byte) : State := { s with dt := d }

def State.withSt (s : State) (d : Byte) : State := { s with st := d }

def State.withFb (s : State) (fb : Framebuffer) : State := { s with fb := fb }

def State.withStack (s : State) (stack : List Word) : State := { s with stack := stack }

theorem exec_withDt {i : Instr} (s : State) (d : Byte) (hread : ∀ x, i ≠ .ldVxDt x)
    (hwrite : ∀ x, i ≠ .ldDtVx x) : exec i (s.withDt d) = onNext (·.withDt d) (exec i s) := by
  cases i with
  | ret => exact execRet_commutes (·.withDt d) s
  | call nnn => exact execCall_commutes (·.withDt d) s nnn
  | drw | ldB | storeRegs | loadRegs =>
    simp only [exec_drw, exec_ldB, exec_storeRegs, exec_loadRegs]
    exact withData_commutes (·.withDt d) s _
  | ldKey x => exact execLdKey_commutes (·.withDt d) s x
  | ldVxDt x => exact absurd rfl (hread x)
  | ldDtVx x => exact absurd rfl (hwrite x)
  | _ => rfl

theorem exec_withSt {i : Instr} (s : State) (d : Byte) (hwrite : ∀ x, i ≠ .ldStVx x) :
    exec i (s.withSt d) = onNext (·.withSt d) (exec i s) := by
  cases i with
  | ret => exact execRet_commutes (·.withSt d) s
  | call nnn => exact execCall_commutes (·.withSt d) s nnn
  | drw | ldB | storeRegs | loadRegs =>
    simp only [exec_drw, exec_ldB, exec_storeRegs, exec_loadRegs]
    exact withData_commutes (·.withSt d) s _
  | ldKey x => exact execLdKey_commutes (·.withSt d) s x
  | ldStVx x => exact absurd rfl (hwrite x)
  | _ => rfl

theorem exec_withFb {i : Instr} (s : State) (fb : Framebuffer) (hread : ∀ x y n, i ≠ .drw x y n)
    (hwrite : i ≠ .cls) : exec i (s.withFb fb) = onNext (·.withFb fb) (exec i s) := by
  cases i with
  | ret => exact execRet_commutes (·.withFb fb) s
  | call nnn => exact execCall_commutes (·.withFb fb) s nnn
  | ldB | storeRegs | loadRegs =>
    simp only [exec_ldB, exec_storeRegs, exec_loadRegs]
    exact withData_commutes (·.withFb fb) s _
  | ldKey x => exact execLdKey_commutes (·.withFb fb) s x
  | drw x y n => exact absurd rfl (hread x y n)
  | cls => exact absurd rfl hwrite
  | _ => rfl

theorem exec_withStack {i : Instr} (s : State) (stack : List Word) (hi : ¬writesStack i) :
    exec i (s.withStack stack) = onNext (·.withStack stack) (exec i s) := by
  cases i with
  | ret | call => exact absurd (by simp [writesStack]) hi
  | drw | ldB | storeRegs | loadRegs =>
    simp only [exec_drw, exec_ldB, exec_storeRegs, exec_loadRegs]
    exact withData_commutes (·.withStack stack) s _
  | ldKey x => exact execLdKey_commutes (·.withStack stack) s x
  | _ => rfl

theorem exec_withEnv {i : Instr} (s : State) (env : Environment) (hi : ∀ x kk, i ≠ .rnd x kk) :
    exec i (s.withEnv env) = onNext (·.withEnv env) (exec i s) := by
  cases i with
  | ret => exact execRet_commutes (·.withEnv env) s
  | call nnn => exact execCall_commutes (·.withEnv env) s nnn
  | drw | ldB | storeRegs | loadRegs =>
    simp only [exec_drw, exec_ldB, exec_storeRegs, exec_loadRegs]
    exact withData_commutes (·.withEnv env) s _
  | ldKey x => exact execLdKey_commutes (·.withEnv env) s x
  | rnd x kk => exact absurd rfl (hi x kk)
  | _ => rfl

/-- Settles O49: the commuting update, and `Fx18`, which overwrites the timer. -/
theorem soundTimerIsNeverRead : Obligations.SoundTimerIsNeverRead := by
  refine fun i s d => ⟨exec_withSt s d, ?_⟩
  rintro x rfl
  rfl

/-- Settles O50: the commuting update, and `00E0`, which overwrites the picture. -/
theorem pixelsAreSeenOnlyByDraw : Obligations.PixelsAreSeenOnlyByDraw := by
  refine fun i s fb hread => ⟨exec_withFb s fb hread, ?_⟩
  rintro rfl
  rfl

/-- Settles O51: the commuting update. -/
theorem stackIsSeenOnlyByCallAndReturn : Obligations.StackIsSeenOnlyByCallAndReturn :=
  fun _ => exec_withStack

/-- Settles O52: the commuting update. -/
theorem randomByteIsSeenOnlyByRandomLoad : Obligations.RandomByteIsSeenOnlyByRandomLoad :=
  fun _ => exec_withEnv

/-! ### The delay timer (R26) -/

theorem countDown_toNat (t : Byte) : (countDown t).toNat = t.toNat - 1 := by
  unfold countDown
  split <;> bv_omega

/-- Of the instructions, only `Fx15` moves the delay timer. -/
theorem effect_dt_ne {i : Instr} {s : State} (h : (effect i s).dt ≠ s.dt) :
    ∃ x, i = .ldDtVx x ∧ (effect i s).dt = s.getV x := by
  by_cases hi : ∃ x, i = .ldDtVx x
  · obtain ⟨x, rfl⟩ := hi
    exact ⟨x, rfl, rfl⟩
  · exact absurd (effect_dt s fun x hx => hi ⟨x, hx⟩) h

theorem stepInstr_dt_ne {s t : State} (h : stepInstr s = .next t) (hne : t.dt ≠ s.dt) :
    ∃ x, decodeWord s.fetchWord = .ok (.ldDtVx x) ∧ t.dt = s.getV x := by
  obtain rfl | ⟨-, -, ⟨f, -, rfl⟩ | ⟨i, hd, -, rfl⟩⟩ := stepInstr_next_cases h
  · exact absurd rfl hne
  · exact absurd rfl hne
  · obtain ⟨x, rfl, hx⟩ := effect_dt_ne hne
    exact ⟨x, hd, hx⟩

/-- Settles O48: the three kinds of step that move the timer, and an instruction's indifference to it. -/
theorem delayTimerMovesOnlyByTickAndWrite : Obligations.DelayTimerMovesOnlyByTickAndWrite := by
  refine ⟨fun s t h hne => ?_, fun i s d hread => ⟨exec_withDt s d hread, ?_⟩⟩
  · obtain ⟨hs, env, u, env', hu, rfl⟩ | ⟨e, es, hs, hstep, he⟩ := step_next_cases h
    · obtain ⟨x, hd, hx⟩ := stepInstr_dt_ne hu hne
      exact .inr (.inr ⟨hs, x, hd, hx⟩)
    · cases e with
      | reset => exact .inl ⟨es, hs⟩
      | timerTick =>
        cases he
        refine .inr (.inl ⟨⟨es, hs⟩, ?_⟩)
        have hmoved : countDown s.dt ≠ s.dt := hne
        have htick := countDown_toNat s.dt
        show (countDown s.dt).toNat + 1 = s.dt.toNat
        bv_omega
      | romWrite j b =>
        obtain ⟨-, -, rfl⟩ := performEvent_romWrite he
        exact absurd rfl hne
      | step r => exact absurd rfl (hstep r)
      | _ =>
        cases he
        exact absurd rfl hne
  · rintro x rfl
    rfl

/-! ### `dirty` (R31, R183) -/

theorem stepInstr_dirty {s t : State} (h : stepInstr s = .next t) :
    t.dirty = s.dirty ∨ t.dirty = true ∧ ∃ x y n, decodeWord s.fetchWord = .ok (.drw x y n) := by
  obtain rfl | ⟨-, -, ⟨f, -, rfl⟩ | ⟨i, hd, -, rfl⟩⟩ := stepInstr_next_cases h
  · exact .inl rfl
  · exact .inl rfl
  · by_cases hi : ∃ x y n, i = .drw x y n
    · obtain ⟨x, y, n, rfl⟩ := hi
      exact .inr ⟨rfl, x, y, n, hd⟩
    · exact .inl (effect_dirty s fun x y n hx => hi ⟨x, y, n, hx⟩)

theorem neither_set_nor_cleared {before after : Bool} (h : after = before) {p q : Prop} :
    (before = false → after = true → p) ∧ (before = true → after = false → q) := by
  subst h
  cases after <;> simp

/-- Settles O53: `Step` sets `dirty` by a draw and never clears it; no other event sets it, and two
clear it. -/
theorem dirtyIsSetByDrawAndClearedByTheHost : Obligations.DirtyIsSetByDrawAndClearedByTheHost := by
  intro s t h
  obtain ⟨hs, env, u, env', hu, rfl⟩ | ⟨e, es, hs, hstep, he⟩ := step_next_cases h
  · obtain hst | ⟨hset, hdraw⟩ := stepInstr_dirty hu
    · exact neither_set_nor_cleared hst
    · exact ⟨fun _ _ => ⟨hs, hdraw⟩, fun _ hclear => nomatch hset.symm.trans hclear⟩
  · cases e with
    | reset =>
      cases he
      exact ⟨fun _ h1 => (nomatch h1), fun _ _ => ⟨es, .inr hs⟩⟩
    | frameAck =>
      cases he
      exact ⟨fun _ h1 => (nomatch h1), fun _ _ => ⟨es, .inl hs⟩⟩
    | romWrite j b =>
      obtain ⟨-, -, rfl⟩ := performEvent_romWrite he
      exact neither_set_nor_cleared rfl
    | step r => exact absurd rfl (hstep r)
    | _ =>
      cases he
      exact neither_set_nor_cleared rfl

end Sys2Proof.Machine
end

section
/-! SUPPORT. The reset state, and the host events `Reset`, `TimerTick`, `SampleKeys` and `FrameAck`
(10_state.md R36; 60_exceptions.md R224 to R227; 70_reset_and_hazards.md R240). -/

namespace Sys2Proof.Machine

/-! ### The reset state -/

theorem getV_reset (j : Reg) : State.reset.getV j = 0 := by
  simp [State.getV, State.reset]

theorem pressed_reset (k : Nat) : State.reset.pressed k = false := by
  simp [State.pressed, State.reset]

theorem pixelAt_zero (k : Nat) : pixelAt 0 k = false :=
  BitVec.getLsbD_zero

theorem Memory.initial_of_lt {a : Nat} (h : a < 80) : Memory.initial a = Param.font.getD a 0 := by
  simp [Memory.initial, h]

theorem Memory.initial_of_le {a : Nat} (h : 80 ≤ a) : Memory.initial a = 0 := by
  simp [Memory.initial, Nat.not_lt.mpr h]

/-- Settles O11: the fields by definition, the tables entry by entry, and memory as `Memory.initial`
has it. -/
theorem resetStateIsAsListed : Obligations.ResetStateIsAsListed :=
  ⟨rfl, rfl, rfl, rfl, rfl, rfl, rfl, rfl, getV_reset, pressed_reset, pixelAt_zero,
    fun _ => Memory.initial_of_lt, fun _ => Memory.initial_of_le⟩

/-- Settles O12: the event replaces every field but the host's side. -/
theorem resetRestoresEverything : Obligations.ResetRestoresEverything :=
  fun _ _ hs => step_of_reset hs

/-- Settles O17: each event writes its one field. -/
theorem sampleKeysAndFrameAckDoJustThat : Obligations.SampleKeysAndFrameAckDoJustThat :=
  ⟨fun _ _ _ hs => step_of_sampleKeys hs, fun _ _ hs => step_of_event hs⟩

/-! ### The timers -/

theorem step_of_timerTick {s : State} {es : List Event} (h : s.env.script = .timerTick :: es) :
    step s = .next (s.takeEvent es).timerTick :=
  step_of_event h

/-- `SoundZero` is emitted by the decrement from 1 alone (R225). -/
theorem soundZero_emitted_iff (t : Byte) : (0#8 < t ∧ countDown t = 0#8) ↔ t.toNat = 1 := by
  have htick := countDown_toNat t
  bv_omega

theorem State.timerTick_env (s : State) :
    s.timerTick.env =
      { s.env with soundZeros := s.env.soundZeros + if s.st.toNat = 1 then 1 else 0 } := by
  simp only [State.timerTick, soundZero_emitted_iff]

/-- Settles O15: one tick, its two counts and its signal. -/
theorem timerTickCountsDown : Obligations.TimerTickCountsDown := by
  intro s es hs
  refine ⟨_, step_of_timerTick hs, ?_, countDown_toNat s.dt, countDown_toNat s.st⟩
  have hone : s.st = 1 ↔ s.st.toNat = 1 := by bv_omega
  have henv := State.timerTick_env (s.takeEvent es)
  simp only [hone]
  exact congrArg (fun env => { (s.takeEvent es).timerTick with env := env }) henv

/-- The signals of a tick and of the `k` ticks after it are those of `k + 1` ticks. -/
theorem soundZeros_succ (st k : Nat) :
    ((if st = 1 then 1 else 0) + if 0 < st - 1 ∧ st - 1 ≤ k then 1 else 0) =
      if 0 < st ∧ st ≤ k + 1 then 1 else 0 := by
  by_cases hone : st = 1
  · rw [if_pos hone, if_neg (by omega), if_pos (by omega)]
  · rw [if_neg hone, Nat.zero_add]
    by_cases hout : 0 < st - 1 ∧ st - 1 ≤ k
    · rw [if_pos hout, if_pos (by omega)]
    · rw [if_neg hout, if_neg (by omega)]

/-- Settles O16: by induction on the ticks. -/
theorem ticksRunTheTimersOut : Obligations.TicksRunTheTimersOut := by
  intro s k es hs
  induction k generalizing s with
  | zero =>
    have hscript : s.env.script = es := hs
    subst hscript
    refine ⟨s, rfl, rfl, rfl, ?_, rfl⟩
    rw [if_neg (by omega), Nat.add_zero]
  | succ k ih =>
    rw [List.replicate_succ, List.cons_append] at hs
    obtain ⟨t, hrun, hdt, hst, hzeros, ht⟩ := ih (s.takeEvent (.replicate k .timerTick ++ es)).timerTick
      (by rw [State.timerTick_env]; rfl)
    refine ⟨t, (core_run_succ (step_of_timerTick hs) k).trans hrun, ?_, ?_, ?_, ?_⟩
    · rw [hdt, State.timerTick_dt, countDown_toNat, State.takeEvent_dt, Nat.sub_sub, Nat.add_comm 1]
    · rw [hst, State.timerTick_st, countDown_toNat, State.takeEvent_st, Nat.sub_sub, Nat.add_comm 1]
    · rw [hzeros, State.timerTick_st, countDown_toNat, State.timerTick_env, Nat.add_assoc]
      exact congrArg _ (soundZeros_succ ..)
    · rw [ht]
      rfl

end Sys2Proof.Machine
end

section
/-! SUPPORT. Calls, key skips, the register writers, `Fx1E` and the timer moves (40_control_transfer.md,
42_immediate.md, 43_alu.md, 44_index_memory.md, 46_keys_timers.md): an instruction that cannot raise leaves
its `effect`. -/

namespace Sys2Proof.Machine

/-! ### Calls and returns (R100, R102) -/

theorem exec_call_of_room (nnn : Addr) {s : State} (h : s.sp < 16) :
    exec (.call nnn) s = .next { s with stack := s.stack ++ [s.pc + 2#16], pc := zextAddr nnn } := by
  simp only [exec, execCall, State.push_of_room s _ h]
  rfl

theorem exec_ret_of_concat {s : State} {rest : List Word} {target : Word}
    (h : s.stack = rest ++ [target]) :
    exec .ret s = .next { s with stack := rest, pc := target } := by
  simp only [exec, execRet, State.pop_of_concat s _ _ h]
  rfl

/-- Settles O19: the push with room, and the pop of the last entry. -/
theorem callPushesAndReturnPops : Obligations.CallPushesAndReturnPops :=
  ⟨fun nnn _ h => ⟨_, exec_call_of_room nnn h, zextAddr_toNat nnn, rfl⟩,
    fun _ _ _ h => exec_ret_of_concat h⟩

/-- Settles O20: the call left its return address last on the stack. -/
theorem returnResumesAfterTheCall : Obligations.ReturnResumesAfterTheCall :=
  fun nnn _ h => ⟨_, exec_call_of_room nnn h, fun _ hu => exec_ret_of_concat hu⟩

/-! ### Key skips (R190, R191) -/

theorem exec_skp (x : Reg) (s : State) :
    exec (.skp x) s = .next (s.skipIf (s.pressed (s.getV x).toNat)) := rfl

theorem exec_sknp (x : Reg) (s : State) :
    exec (.sknp x) s = .next (s.skipIf (!s.pressed (s.getV x).toNat)) := rfl

theorem State.pressed_of_lt (s : State) {k : Nat} (h : k < 16) : s.pressed k = s.keys[k] :=
  dif_pos h

theorem State.pressed_eq_false {s : State} {k : Nat} (h : ∀ hk : k < 16, s.keys[k] = false) :
    s.pressed k = false := by
  by_cases hk : k < 16
  · rw [s.pressed_of_lt hk, h hk]
  · exact dif_neg hk

/-- Settles O22: a number above 15 is no pressed key, and each skip is `skipIf` of the key or its negation. -/
theorem keySkipsTestTheKey : Obligations.KeySkipsTestTheKey := by
  intro x s
  refine ⟨fun hlt hkey => ?_, fun hkeys => ?_⟩
  · rw [exec_skp, exec_sknp, s.pressed_of_lt hlt, hkey]
    exact ⟨rfl, rfl⟩
  · rw [exec_skp, exec_sknp, State.pressed_eq_false hkeys]
    exact ⟨rfl, rfl⟩

/-! ### Writers of one register -/

/-- What a register write and the advance leave, for the statements that list it. -/
theorem setV_advance_spec {i : Instr} {s : State} {x : Reg} {b : Byte}
    (h : exec i s = .next (s.setV x b).advance) :
    ∃ t, exec i s = .next t ∧ t = { s with v := t.v, pc := s.pc + 2#16 } ∧
      t.getV x = b ∧ ∀ j, j ≠ x → t.getV j = s.getV j :=
  ⟨_, h, s.advance_setV x b, s.getV_advance_setV_self x b, fun _ => s.getV_advance_setV_of_ne b⟩

/-- Settles O25: each is a write of `V[x]` and the advance. -/
theorem copyAndLogicWriteOnlyTheResult : Obligations.CopyAndLogicWriteOnlyTheResult := by
  intro x y s p hp
  simp only [List.mem_cons, List.not_mem_nil, or_false] at hp
  obtain rfl | rfl | rfl | rfl := hp <;> exact setV_advance_spec rfl

/-- Settles O40: one write of a register, and two of a timer. -/
theorem timersAreReadAndSet : Obligations.TimersAreReadAndSet :=
  fun _ _ => ⟨setV_advance_spec rfl, rfl, rfl⟩

/-- Settles O24: the byte drawn is the one named, or the free value. -/
theorem randomByteIsMasked : Obligations.RandomByteIsMasked := by
  intro x kk s
  have hx : (s.drawn.setV x (s.random &&& kk)).advance.getV x = s.random &&& kk := by simp
  refine ⟨_, rfl, rfl, fun r hr => ?_, fun hnone => ?_, fun j hj => by simp [hj]⟩
  · rw [hx, State.random, hr, Option.getD_some]
  · rw [hx, State.random, hnone, Option.getD_none]

/-- Settles O30: the sum of words is taken modulo 65536. -/
theorem indexIsAddedToUnmasked : Obligations.IndexIsAddedToUnmasked := by
  intro x s
  refine ⟨_, rfl, s.advance_setI _, ?_⟩
  rw [s.advance_setI_i, BitVec.toNat_add, zextByte_toNat]

/-! ### Result and flag (R140) -/

/-- What a result, a flag and the advance leave, as numbers, for the statements that list it. -/
theorem setResultAndFlag_advance_spec {i : Instr} {s : State} {x : Reg} {r f : Byte} {m n : Nat}
    (h : exec i s = .next (s.setResultAndFlag x r f).advance) (hr : r.toNat = m) (hf : f.toNat = n) :
    ∃ t, exec i s = .next t ∧ t = { s with v := t.v, pc := s.pc + 2#16 } ∧
      (x ≠ 0xF#4 → (t.getV x).toNat = m) ∧ (t.getV 0xF#4).toNat = n ∧
      ∀ j, j ≠ x → j ≠ 0xF#4 → t.getV j = s.getV j := by
  refine ⟨_, h, rfl, fun hx => ?_, ?_, fun j hj hF => ?_⟩
  · simp [hx, hr]
  · simp [hf]
  · simp [hj, hF]

theorem flagByte_toNat (b : Bool) : (flagByte b).toNat = if b then 1 else 0 := by
  cases b <;> rfl

theorem sub_toNat_byte (a b : Byte) : (a - b).toNat = (256 + a.toNat - b.toNat) % 256 := by
  bv_omega

/-- Settles O26: byte arithmetic is modulo 256, and each flag is its comparison. -/
theorem addAndSubtractSetTheirFlags : Obligations.AddAndSubtractSetTheirFlags := by
  rintro x y s _ _ rfl rfl p hp
  simp only [List.mem_cons, List.not_mem_nil, or_false] at hp
  obtain rfl | rfl | rfl := hp
  · exact setResultAndFlag_advance_spec rfl (BitVec.toNat_add ..) (flagByte_toNat _)
  · exact setResultAndFlag_advance_spec rfl (sub_toNat_byte ..) (flagByte_toNat _)
  · exact setResultAndFlag_advance_spec rfl (sub_toNat_byte ..) (flagByte_toNat _)

theorem shiftRight_one_toNat (a : Byte) : (a >>> 1).toNat = a.toNat / 2 := by
  rw [BitVec.toNat_ushiftRight, Nat.shiftRight_eq_div_pow, Nat.pow_one]

theorem shiftLeft_one_toNat (a : Byte) : (a <<< 1).toNat = a.toNat * 2 % 256 := by
  rw [BitVec.toNat_shiftLeft, Nat.shiftLeft_eq, Nat.pow_one]

theorem lowBitFlag_toNat (a : Byte) : (lowBitFlag a).toNat = a.toNat % 2 := by
  rw [lowBitFlag, flagByte_toNat, BitVec.getLsbD, Nat.testBit_zero]
  rcases Nat.mod_two_eq_zero_or_one a.toNat with h | h <;> simp [h]

theorem highBitFlag_toNat (a : Byte) : (highBitFlag a).toNat = a.toNat / 128 := by
  have hmsb : a.getLsbD 7 = decide (128 ≤ a.toNat) := a.msb_eq_getLsbD_last.symm.trans a.msb_eq_decide
  have hlt : a.toNat < 256 := a.isLt
  rw [highBitFlag, flagByte_toNat, hmsb]
  by_cases h : 128 ≤ a.toNat
  · rw [decide_eq_true h, if_pos rfl]
    omega
  · rw [decide_eq_false h, if_neg Bool.false_ne_true]
    omega

/-- Settles O27: the quotient and the remainder of each shift. -/
theorem shiftsMoveTheBitOutIntoTheFlag : Obligations.ShiftsMoveTheBitOutIntoTheFlag := by
  rintro x y s _ rfl p hp
  simp only [List.mem_cons, List.not_mem_nil, or_false] at hp
  obtain rfl | rfl := hp
  · exact setResultAndFlag_advance_spec rfl (shiftRight_one_toNat _) (lowBitFlag_toNat _)
  · exact setResultAndFlag_advance_spec rfl (shiftLeft_one_toNat _) (highBitFlag_toNat _)

/-! ### The key wait (R192) -/

/-- Settles O39: the scan answers the least pressed key, or none. -/
theorem keyWaitTakesTheLowestKeyOrWaits : Obligations.KeyWaitTakesTheLowestKeyOrWaits := by
  intro x s
  refine ⟨fun k hk hkey hleast => ?_, fun hnone => ?_⟩
  · have hscan : s.scanKeys = some k :=
      State.scanKeys_eq_some.mpr ⟨hk, (s.pressed_of_lt hk).trans hkey,
        fun j hj => State.pressed_eq_false fun _ => hleast j hj⟩
    have hexec : exec (.ldKey x) s = .next (s.setV x (BitVec.ofNat 8 k)).advance := by
      simp only [exec, execLdKey, hscan]
    obtain ⟨t, ht, hframe, hx, hrest⟩ := setV_advance_spec hexec
    refine ⟨t, ht, hframe, ?_, hrest⟩
    rw [hx, BitVec.toNat_ofNat, Nat.mod_eq_of_lt (by omega)]
  · have hscan : s.scanKeys = none :=
      State.scanKeys_eq_none.mpr fun k hk => State.pressed_eq_false fun _ => hnone k hk
    simp only [exec, execLdKey, hscan]

end Sys2Proof.Machine
end

section
/-! SUPPORT. The stores and the load through `I` (44_index_memory.md R164 to R166), and the code that a store
makes (20_memory.md R62). -/

namespace Sys2Proof.Machine

/-- A store and the advance touch memory and `pc` alone. -/
theorem State.advance_storeData (s : State) (bs : List Byte) :
    (s.storeData bs).advance =
      { s with mem := (s.storeData bs).advance.mem, pc := s.pc + 2#16 } := rfl

theorem State.read_storeData_inside (s : State) {bs : List Byte} {j : Nat} (h : j < bs.length) :
    (s.storeData bs).advance.mem.read (s.i.toNat + j) = bs[j] :=
  Memory.read_writeFrom_inside s.mem s.i.toNat bs h

theorem State.read_storeData_outside (s : State) {bs : List Byte} {a : Nat}
    (h : a < s.i.toNat ∨ s.i.toNat + bs.length ≤ a) :
    (s.storeData bs).advance.mem.read a = s.mem.read a :=
  Memory.read_writeFrom_outside s.mem s.i.toNat bs a h

/-! ### The decimal digits (R164) -/

theorem ofNat_byte_toNat {n : Nat} (h : n < 256) : (BitVec.ofNat 8 n).toNat = n := by
  rw [BitVec.toNat_ofNat, Nat.mod_eq_of_lt h]

/-- Settles O31: the three bytes stored are the digits, each of which fits a byte. -/
theorem decimalDigitsAreStored : Obligations.DecimalDigitsAreStored := by
  intro x s h
  have hlt : (s.getV x).toNat < 256 := (s.getV x).isLt
  have hread {j : Nat} (hj : j < 3) :
      (s.storeData (decimalDigits (s.getV x))).advance.mem.read (s.i.toNat + j) =
        (decimalDigits (s.getV x))[j]'hj := s.read_storeData_inside hj
  refine ⟨_, execLdB_inRange x h, s.advance_storeData _, ?_, ?_, ?_,
    fun a ha => s.read_storeData_outside ha⟩
  · exact (congrArg _ (hread (j := 0) (by decide))).trans (ofNat_byte_toNat (by omega))
  · exact (congrArg _ (hread (j := 1) (by decide))).trans (ofNat_byte_toNat (by omega))
  · exact (congrArg _ (hread (j := 2) (by decide))).trans (ofNat_byte_toNat (by omega))

/-! ### The registers stored and loaded (R165, R166) -/

theorem getElem_regsUpTo (s : State) {x : Reg} (j : Reg) (h : j.toNat < (s.regsUpTo x).length) :
    (s.regsUpTo x)[j.toNat] = s.getV j := by
  simp [State.regsUpTo, regOfNat]

theorem read_storeRegs (s : State) {x j : Reg} (h : j.toNat ≤ x.toNat) :
    (s.storeData (s.regsUpTo x)).advance.mem.read (s.i.toNat + j.toNat) = s.getV j := by
  have hlt : j.toNat < (s.regsUpTo x).length := by
    rw [s.regsUpTo_length]
    omega
  rw [s.read_storeData_inside hlt, getElem_regsUpTo]

/-- Settles O32: the bytes stored are the registers, in order. -/
theorem registersAreStored : Obligations.RegistersAreStored := by
  intro x s h
  refine ⟨_, execStoreRegs_inRange x h, s.advance_storeData _, fun j => read_storeRegs s,
    fun a ha => s.read_storeData_outside ?_⟩
  rw [s.regsUpTo_length]
  omega

/-- `I + x + 1` of an access within memory does not wrap. -/
theorem index_advanced_toNat {i : Word} {x : Reg} (h : i.toNat + x.toNat ≤ 0xFFF) :
    (i + (x.setWidth 16 + 1#16)).toNat = i.toNat + x.toNat + 1 := by
  have hx : (x.setWidth 16).toNat = x.toNat := BitVec.toNat_setWidth_of_le (by decide)
  bv_omega

/-- Settles O33: the load of the registers, and the index it leaves. -/
theorem registersAreLoadedAndIndexAdvances : Obligations.RegistersAreLoadedAndIndexAdvances := by
  intro x s h
  refine ⟨_, execLoadRegs_inRange x h, rfl, index_advanced_toNat h, fun j hj => ?_, fun j hj => ?_⟩
  · simp [hj]
  · simp [Nat.not_le.mpr hj]

/-- Settles O34: what O32 says of the bytes stored and O33 of the bytes loaded. -/
theorem loadAfterStoreRestoresTheRegisters : Obligations.LoadAfterStoreRestoresTheRegisters := by
  intro x s h
  obtain ⟨t, ht, hframe, hstored, -⟩ := registersAreStored x s h
  refine ⟨t, ht, fun u hmem hi => ?_⟩
  have hui : u.i = s.i := by rw [hi, hframe]
  obtain ⟨w, hw, -, hwi, hloaded, -⟩ := registersAreLoadedAndIndexAdvances x u (by rwa [hui])
  refine ⟨w, hw, by rw [hwi, hui], fun j hj => ?_⟩
  rw [hloaded j hj, hmem, hui, hstored j hj]

/-- Settles O35: the first two bytes stored lie at the new `pc`. -/
theorem storedCodeIsFetchedNext : Obligations.StoredCodeIsFetchedNext := by
  intro x s hx hi h
  obtain ⟨t, ht, hframe, hstored, -⟩ := registersAreStored x s h
  have hpc : t.pc.toNat = s.i.toNat := by
    have hnext : t.pc = s.pc + 2#16 := by rw [hframe]
    bv_omega
  refine ⟨t, ht, (State.canFetch_iff t).mpr (by omega), ?_⟩
  have hhigh : t.mem.read s.i.toNat = s.getV 0 := hstored 0 (Nat.zero_le _)
  have hlow : t.mem.read (s.i.toNat + 1) = s.getV 1 := hstored 1 hx
  rw [State.fetchWord, hpc, hhigh, hlow]

end Sys2Proof.Machine
end

section
/-! SUPPORT. The display instructions (45_display.md R180 to R182): the sprite's pixels are flipped once each,
so that a draw inverts them and a second draw restores them. -/

namespace Sys2Proof.Machine

/-- Settles O36: no bit of the zero picture is set. -/
theorem clearZeroesEveryPixel : Obligations.ClearZeroesEveryPixel :=
  fun _ => ⟨_, exec_of_not_raises (not_raises (by simp) (by simp) rfl), rfl, pixelAt_zero⟩

/-- The pixels that `Dxyn` flips in state `s`. -/
def State.sprite (s : State) (x y : Reg) (n : Nibble) : List Nat :=
  spritePixels s.mem s.i.toNat (s.getV x) (s.getV y) n.toNat

section Sprite

variable (s : State) (x y : Reg) (n : Nibble)

theorem State.mem_sprite {k : Nat} : k ∈ s.sprite x y n ↔ SpritePixel s x y n k :=
  mem_spritePixels

theorem State.sprite_nodup : (s.sprite x y n).Nodup :=
  spritePixels_nodup _ _ _ _ (Nat.le_trans (Nat.le_of_lt n.isLt) (by decide))

theorem State.fb_drawSprite : (s.drawSprite x y n).advance.fb = s.fb ^^^ pixelMask (s.sprite x y n) :=
  blit_fst _ _ _

theorem State.pixelAt_drawSprite {k : Nat} (hk : k < 2048) :
    pixelAt (s.drawSprite x y n).advance.fb k =
      (pixelAt s.fb k ^^ decide (k ∈ s.sprite x y n)) :=
  pixelAt_blit (s.sprite_nodup x y n) s.fb false hk

theorem State.vf_drawSprite_eq :
    (s.drawSprite x y n).advance.vf = flagByte ((s.sprite x y n).any (pixelAt s.fb)) := by
  have hcollision := blit_snd (s.sprite_nodup x y n) (fun _ => spritePixels_lt) s.fb false
  rw [s.vf_drawSprite]
  exact congrArg flagByte (hcollision.trans (Bool.false_or _))

theorem flagByte_eq_one_iff (b : Bool) : flagByte b = 1 ↔ b = true := by
  cases b <;> decide

/-- R182: the flag is the collision. -/
theorem State.vf_drawSprite_eq_one_iff :
    (s.drawSprite x y n).advance.vf = 1 ↔ ∃ k, SpritePixel s x y n k ∧ pixelAt s.fb k = true := by
  simp only [State.vf_drawSprite_eq, flagByte_eq_one_iff, List.any_eq_true, State.mem_sprite]

end Sprite

/-- Settles O37: a listed pixel is flipped, and no other; the flag is the collision, and 0 without one. -/
theorem drawInvertsTheSpritePixels : Obligations.DrawInvertsTheSpritePixels := by
  intro x y n s h
  refine ⟨_, execDrw_inRange x y n h, rfl, fun k hk => ⟨fun hin => ?_, fun hout => ?_⟩,
    (s.vf_drawSprite_eq_one_iff x y n).mpr, fun hnone => ?_, fun j hj => ?_⟩
  · rw [s.pixelAt_drawSprite x y n hk, decide_eq_true ((s.mem_sprite x y n).mpr hin), Bool.xor_true]
  · rw [s.pixelAt_drawSprite x y n hk, decide_eq_false (mt (s.mem_sprite x y n).mp hout), Bool.xor_false]
  · have hvf := effect_vf_of_isFlagWriter s (i := .drw x y n) (by simp [isFlagWriter])
    refine hvf.resolve_right fun hone => ?_
    obtain ⟨k, hk, hlit⟩ := (s.vf_drawSprite_eq_one_iff x y n).mp hone
    exact Bool.false_ne_true ((hnone k hk).symm.trans hlit)
  · exact getV_effect s (i := .drw x y n) (beq_eq_false_iff_ne.mpr hj)

/-- Settles O38: the second draw flips the same pixels, and collides where the first one lit one. -/
theorem drawingTwiceRestoresThePicture : Obligations.DrawingTwiceRestoresThePicture := by
  intro x y n s h
  refine ⟨_, execDrw_inRange x y n h, fun hx hy => ?_⟩
  have hsame : (s.drawSprite x y n).advance.sprite x y n = s.sprite x y n :=
    congrFun (congr (congrArg (spritePixels s.mem s.i.toNat) hx) hy) n.toNat
  refine ⟨_, execDrw_inRange x y n h, ?_, rfl, ?_⟩
  · rw [State.fb_drawSprite, hsame, State.fb_drawSprite, BitVec.xor_assoc, BitVec.xor_self, BitVec.xor_zero]
  · rw [State.vf_drawSprite_eq_one_iff]
    refine exists_congr fun k => ?_
    rw [← State.mem_sprite, hsame, ← s.mem_sprite]
    refine and_congr_right fun hk => ?_
    rw [s.pixelAt_drawSprite x y n (spritePixels_lt hk), decide_eq_true hk, Bool.xor_true,
      Bool.not_eq_true']

end Sys2Proof.Machine
end
